-- ==== Sys2Proof/Config.lean ====
section
/-! DEFINITION. The implementation parameters of 00_scope.md R6. A machine state carries one
`Params` that no step changes; the OPEN parameters of the machine after reset are opaque
constants, each in its legal range (assumption log 3). -/

namespace Sys2Proof

/-- What a full receive queue does with a newly accepted frame (00_scope.md R6, 40_codec.md R106). -/
inductive Overrun where
  | dropNew
  | dropOldest
deriving DecidableEq, Repr, Inhabited

/-- The parameters of 00_scope.md R6. -/
structure Params where
  /-- `ACK_POLL_BUDGET`: polls WAIT_ACK makes before `Timeout`. -/
  ackPollBudget : Nat
  /-- `SLAVE_TABLE_CAPACITY`: number of SlaveRecord slots. -/
  slaveTableCapacity : Nat
  /-- `SCAN_FIRST`: first candidate ID. -/
  scanFirst : BitVec 7
  /-- `SCAN_LAST`: last candidate ID, inclusive. -/
  scanLast : BitVec 7
  /-- `SCAN_RETRY_LIMIT`: the give-up threshold on a candidate's retry count. -/
  scanRetryLimit : Nat
  /-- `RXQ_DEPTH`: capacity of each receive queue, in frames. -/
  rxqDepth : Nat
  /-- `RXQ_OVERRUN`. -/
  rxqOverrun : Overrun
  /-- `TX_SLOTS`: number of hardware transmit slots. -/
  txSlots : Nat
deriving DecidableEq, Repr

/-- The ranges that 00_scope.md R6 gives the parameters (the budget's lower bound: R16, it is never
decremented below 0). -/
abbrev Params.Valid (p : Params) : Prop :=
  1 ≤ p.ackPollBudget ∧ 1 ≤ p.slaveTableCapacity ∧ p.slaveTableCapacity ≤ 128 ∧
  p.scanFirst.toNat ≤ p.scanLast.toNat ∧ 1 ≤ p.scanRetryLimit ∧ 1 ≤ p.rxqDepth ∧ 1 ≤ p.txSlots

/-- How many IDs the candidate range holds, the node's own ID included. -/
def Params.rangeSize (p : Params) : Nat := p.scanLast.toNat - p.scanFirst.toNat + 1

/-- One less than SLAVE_TABLE_CAPACITY, an integer 1..128 (OPEN, D37). DESIGN CHOICE (log 3). -/
opaque Config.slaveTableCapacityPred : Fin 128

/-- SCAN_LAST, at most 127 (OPEN, D18). DESIGN CHOICE (log 3). -/
opaque Config.scanLast : Fin 128

/-- SCAN_FIRST, at most SCAN_LAST (OPEN, D18). DESIGN CHOICE (log 3). -/
opaque Config.scanFirst : Fin (Config.scanLast.val + 1)

/-- One less than SCAN_RETRY_LIMIT, an integer >= 1 (OPEN, D37). DESIGN CHOICE (log 3). -/
opaque Config.scanRetryLimitPred : Nat

/-- One less than RXQ_DEPTH, an integer >= 1 (OPEN, D34). DESIGN CHOICE (log 3). -/
opaque Config.rxqDepthPred : Nat

/-- RXQ_OVERRUN (OPEN, D34). DESIGN CHOICE (log 3). -/
opaque Config.rxqOverrun : Overrun

/-- One less than TX_SLOTS, an integer >= 1 (OPEN, D35). DESIGN CHOICE (log 3). -/
opaque Config.txSlotsPred : Nat

/-- The parameters of the machine after reset: ACK_POLL_BUDGET at the value 00_scope.md R6 gives it,
the OPEN ones free within their ranges. -/
def Config.params : Params where
  ackPollBudget := 1000
  slaveTableCapacity := Config.slaveTableCapacityPred.val + 1
  scanFirst := BitVec.ofNat 7 Config.scanFirst.val
  scanLast := BitVec.ofNat 7 Config.scanLast.val
  scanRetryLimit := Config.scanRetryLimitPred + 1
  rxqDepth := Config.rxqDepthPred + 1
  rxqOverrun := Config.rxqOverrun
  txSlots := Config.txSlotsPred + 1

end Sys2Proof
end

