-- ==== Sys2Proof/Word.lean ====
section
/-! DEFINITION. The data units of the machine: bytes, messages, identifier fields and frames. -/

namespace Sys2Proof

/-- One payload byte (20_memory.md R51). -/
abbrev Byte := BitVec 8

/-- A Message: the bytes `msg[0]` to `msg[7]` (00_scope.md R13, 20_memory.md R51). -/
structure Message where
  b0 : Byte
  b1 : Byte
  b2 : Byte
  b3 : Byte
  b4 : Byte
  b5 : Byte
  b6 : Byte
  b7 : Byte
deriving DecidableEq, Repr

/-- The message of eight zero bytes. -/
abbrev Message.zero : Message := ⟨0, 0, 0, 0, 0, 0, 0, 0⟩

/-- The fields of a 29-bit FrameID (30_encoding.md R70). -/
structure IdFields where
  control : BitVec 16
  tos : BitVec 2
  ms : BitVec 3
  node : BitVec 7
  ack : BitVec 1
deriving DecidableEq, Repr

/-- A CAN frame (00_scope.md R14). `ide` is true for an extended frame, `rtr` for a remote frame,
`dlc` is the raw data length code. -/
structure Frame where
  ide : Bool
  rtr : Bool
  id : BitVec 29
  dlc : BitVec 4
  data : Message
deriving DecidableEq, Repr

end Sys2Proof
end

