-- ==== Sys2Proof/Syntax.lean ====
section
/-! DEFINITION. The instructions: one constructor for each row of spec/opcode_table.json. Command
rows are words on the command port (30_encoding.md R79 to R81); frame rows are received MBNet frames
that the dispatcher or the master request engine classifies (R74 to R78). -/

namespace Sys2Proof

/-- The operands of a received frame whose row leaves all of `control` free: an application ETOS
request, RAM_READ, RAM_WRITE, PING or an acknowledge (30_encoding.md R70). -/
structure FrameOps where
  control : BitVec 16
  ms : BitVec 3
  node : BitVec 7
  dlc : BitVec 4
  data : Message
deriving DecidableEq, Repr

/-- The operands of a SPECIAL request whose row fixes the ETOS, `control[7:0]`: only
`control[15:8]` is free (30_encoding.md R76). -/
structure EtosOps where
  controlHigh : BitVec 8
  ms : BitVec 3
  node : BitVec 7
  dlc : BitVec 4
  data : Message
deriving DecidableEq, Repr

/-- The instructions, in the order of spec/opcode_table.json. -/
inductive Instr where
  /-- R130 -/
  | init
  /-- R131 -/
  | nodeidSet (id : BitVec 8)
  /-- R132 -/
  | nodeidGet
  /-- R150 -/
  | sendReq (slave : BitVec 7) (tos : BitVec 2) (control : BitVec 16) (dlc : BitVec 4) (msg : Message)
  /-- R151 -/
  | sendReqAgain (slave : BitVec 7)
  /-- R152 -/
  | waitAckNb (slave : BitVec 7)
  /-- R154 -/
  | waitAck (slave : BitVec 7)
  /-- R270 -/
  | sendAck (master : BitVec 7) (tos : BitVec 2) (dlc : BitVec 4) (msg : Message)
  /-- R196 -/
  | slaveInfoGet (slave : BitVec 7)
  /-- R220 -/
  | handler
  /-- R284 -/
  | reservedA
  /-- R284 -/
  | reservedB
  /-- R284 -/
  | reservedC
  /-- R284 -/
  | reservedD
  /-- R284 -/
  | reservedE
  /-- R284 -/
  | reservedF
  /-- ETOS 0x00, R225 -/
  | etosLock (q : EtosOps)
  /-- ETOS 0x01, R226 -/
  | etosUnlock (q : EtosOps)
  /-- ETOS 0x02, R227 -/
  | etosReserved02 (q : EtosOps)
  /-- ETOS 0x03, R228 -/
  | etosReserved03 (q : EtosOps)
  /-- ETOS 0x04, R229 -/
  | etosInitHook (q : EtosOps)
  /-- ETOS 0x05, R230 -/
  | etosUnimplemented05 (q : EtosOps)
  /-- ETOS 0x06, R231 -/
  | etosNotifyEvent (q : EtosOps)
  /-- ETOS 0x07, R232 -/
  | etosNotifySysex (q : EtosOps)
  /-- ETOS 0x08, R233 -/
  | etosDinToggle (q : EtosOps)
  /-- ETOS 0x09, R234 -/
  | etosEncChange (q : EtosOps)
  /-- ETOS 0x0a, R235 -/
  | etosAinChange (q : EtosOps)
  /-- ETOS 0x0b, R236 -/
  | etosReserved0B (q : EtosOps)
  /-- ETOS 0x0c, R236 -/
  | etosReserved0C (q : EtosOps)
  /-- ETOS 0x0d, R236 -/
  | etosReserved0D (q : EtosOps)
  /-- ETOS 0x0e, R236 -/
  | etosReserved0E (q : EtosOps)
  /-- ETOS 0x0f, R237 -/
  | etosClone (q : EtosOps)
  /-- ETOS 0x80 to 0xff, R239 -/
  | etosApp1 (q : FrameOps)
  /-- ETOS 0x40 to 0x7f, R239 -/
  | etosApp2 (q : FrameOps)
  /-- ETOS 0x20 to 0x3f, R239 -/
  | etosApp3 (q : FrameOps)
  /-- ETOS 0x10 to 0x1f, R239 -/
  | etosApp4 (q : FrameOps)
  /-- R240 -/
  | ramRead (q : FrameOps)
  /-- R241 -/
  | ramWrite (q : FrameOps)
  /-- R242 -/
  | ping (q : FrameOps)
  /-- R75, R152 -/
  | ackOk (q : FrameOps)
  /-- R75, R152 -/
  | ackRead (q : FrameOps)
  /-- R75, R152 -/
  | ackRetry (q : FrameOps)
  /-- R75, R152 -/
  | ackError (q : FrameOps)
deriving DecidableEq, Repr

/-- What the machine decodes: a command word with its data operand from the command port
(30_encoding.md R79), or a received frame (R78). -/
inductive Words where
  | command (cmd data : BitVec 64)
  | frame (f : Frame)
deriving DecidableEq, Repr

/-- A request tos operand in assembler text, by name or by number (30_encoding.md R86). -/
inductive ReqTos where
  | special
  | ramRead
  | ramWrite
  | ping
  | number (v : BitVec 2)
deriving DecidableEq, Repr

/-- An acknowledge tos operand in assembler text, by name or by number (30_encoding.md R86). -/
inductive AckTos where
  | ok
  | read
  | retry
  | error
  | number (v : BitVec 2)
deriving DecidableEq, Repr

/-- One line of the assembler syntax of 30_encoding.md R86, after its numbers are read. `data` is the
list of bytes written between the brackets. -/
inductive AsmLine where
  | init
  | nodeidSet (id : BitVec 8)
  | nodeidGet
  | sendReq (slave : BitVec 7) (tos : ReqTos) (control : BitVec 16) (dlc : BitVec 4) (data : List Byte)
  | sendReqAgain (slave : BitVec 7)
  | waitAckNb (slave : BitVec 7)
  | waitAck (slave : BitVec 7)
  | sendAck (master : BitVec 7) (tos : AckTos) (dlc : BitVec 4) (data : List Byte)
  | slaveInfoGet (slave : BitVec 7)
  | handler
deriving DecidableEq, Repr

end Sys2Proof
end

