-- ==== Sys2Proof/WellFormed.lean ====
section
/-! DEFINITION. Which terms of `Instr` an encoding stands for. Every operand of a command row may
take every value of its field (30_encoding.md R79, R84). A received frame carries no data byte
beyond its data length (00_scope.md R14), and each application row fixes leading bits of the ETOS. -/

namespace Sys2Proof

/-- Every byte `msg[k]` with `n ≤ k` is zero. -/
def Message.zeroFrom (n : Nat) (m : Message) : Bool :=
  (decide (0 < n) || m.b0 == 0) && (decide (1 < n) || m.b1 == 0) &&
  (decide (2 < n) || m.b2 == 0) && (decide (3 < n) || m.b3 == 0) &&
  (decide (4 < n) || m.b4 == 0) && (decide (5 < n) || m.b5 == 0) &&
  (decide (6 < n) || m.b6 == 0) && (decide (7 < n) || m.b7 == 0)

/-- The payload of a received frame: the bytes that did not travel read as zero (00_scope.md R14). -/
def payloadOk (dlc : BitVec 4) (m : Message) : Bool := m.zeroFrom (min dlc.toNat 8)

/-- The ETOS of an application row begins with the bits the row's match fixes: `lead` is
`control[7:4]` shifted right by `k` (rows ETOS_APP.1 to ETOS_APP.4 of the table). -/
def etosLeads (control : BitVec 16) (k : Nat) : Bool := (control.extractLsb' 4 4) >>> k == 1

/-- The well-formed instructions. -/
def Instr.wf : Instr → Bool
  | .init => true
  | .nodeidSet _ => true
  | .nodeidGet => true
  | .sendReq _ _ _ _ _ => true
  | .sendReqAgain _ => true
  | .waitAckNb _ => true
  | .waitAck _ => true
  | .sendAck _ _ _ _ => true
  | .slaveInfoGet _ => true
  | .handler => true
  | .reservedA => true
  | .reservedB => true
  | .reservedC => true
  | .reservedD => true
  | .reservedE => true
  | .reservedF => true
  | .etosLock q => payloadOk q.dlc q.data
  | .etosUnlock q => payloadOk q.dlc q.data
  | .etosReserved02 q => payloadOk q.dlc q.data
  | .etosReserved03 q => payloadOk q.dlc q.data
  | .etosInitHook q => payloadOk q.dlc q.data
  | .etosUnimplemented05 q => payloadOk q.dlc q.data
  | .etosNotifyEvent q => payloadOk q.dlc q.data
  | .etosNotifySysex q => payloadOk q.dlc q.data
  | .etosDinToggle q => payloadOk q.dlc q.data
  | .etosEncChange q => payloadOk q.dlc q.data
  | .etosAinChange q => payloadOk q.dlc q.data
  | .etosReserved0B q => payloadOk q.dlc q.data
  | .etosReserved0C q => payloadOk q.dlc q.data
  | .etosReserved0D q => payloadOk q.dlc q.data
  | .etosReserved0E q => payloadOk q.dlc q.data
  | .etosClone q => payloadOk q.dlc q.data
  | .etosApp1 q => payloadOk q.dlc q.data && etosLeads q.control 3
  | .etosApp2 q => payloadOk q.dlc q.data && etosLeads q.control 2
  | .etosApp3 q => payloadOk q.dlc q.data && etosLeads q.control 1
  | .etosApp4 q => payloadOk q.dlc q.data && etosLeads q.control 0
  | .ramRead q => payloadOk q.dlc q.data
  | .ramWrite q => payloadOk q.dlc q.data
  | .ping q => payloadOk q.dlc q.data
  | .ackOk q => payloadOk q.dlc q.data
  | .ackRead q => payloadOk q.dlc q.data
  | .ackRetry q => payloadOk q.dlc q.data
  | .ackError q => payloadOk q.dlc q.data

/-- A well-formed instruction. -/
abbrev Instr.WellFormed (i : Instr) : Prop := i.wf = true

end Sys2Proof
end

