-- ==== Sys2Proof/Decode.lean ====
section
/-! DEFINITION. The frame codec (PACK, UNPACK), the payload byte order, the decoder of command words
and received frames, and the encoder (40_codec.md R101, R102, R111; 30_encoding.md R70 to R81). -/

namespace Sys2Proof

/-! ### Payload bytes -/

/-- The first `n` bytes of a message, the others zero (40_codec.md R107, R111). -/
def Message.keep (n : Nat) (m : Message) : Message where
  b0 := if 0 < n then m.b0 else 0
  b1 := if 1 < n then m.b1 else 0
  b2 := if 2 < n then m.b2 else 0
  b3 := if 3 < n then m.b3 else 0
  b4 := if 4 < n then m.b4 else 0
  b5 := if 5 < n then m.b5 else 0
  b6 := if 6 < n then m.b6 else 0
  b7 := if 7 < n then m.b7 else 0

/-- How many payload bytes a frame with this data length code carries, `min(dlc, 8)` (R111, R14). -/
def dataLength (dlc : BitVec 4) : Nat := min dlc.toNat 8

/-- `msg[k] = DATA[8k+7:8k]` (30_encoding.md R80). -/
def Message.ofData (d : BitVec 64) : Message where
  b0 := d.extractLsb' 0 8
  b1 := d.extractLsb' 8 8
  b2 := d.extractLsb' 16 8
  b3 := d.extractLsb' 24 8
  b4 := d.extractLsb' 32 8
  b5 := d.extractLsb' 40 8
  b6 := d.extractLsb' 48 8
  b7 := d.extractLsb' 56 8

/-- The 64-bit word a message is laid out as, in DATA and in RES_DATA (30_encoding.md R80, R82). -/
def Message.toData (m : Message) : BitVec 64 :=
  (m.b7 ++ m.b6 ++ m.b5 ++ m.b4 ++ m.b3 ++ m.b2 ++ m.b1 ++ m.b0).cast (by rfl)

/-! ### The FrameID -/

/-- PACK (40_codec.md R101). -/
def pack (u : IdFields) : BitVec 29 :=
  (u.control.setWidth 29 <<< 13) ||| (u.tos.setWidth 29 <<< 11) ||| (u.ms.setWidth 29 <<< 8)
    ||| (u.node.setWidth 29 <<< 1) ||| u.ack.setWidth 29

/-- UNPACK (40_codec.md R102). -/
def unpack (id : BitVec 29) : IdFields where
  control := id.extractLsb' 13 16
  tos := id.extractLsb' 11 2
  ms := id.extractLsb' 8 3
  node := id.extractLsb' 1 7
  ack := id.extractLsb' 0 1

/-! ### The command word (30_encoding.md R79) -/

/-- `CMD[3:0]`. -/
def cmdOp (cmd : BitVec 64) : BitVec 4 := cmd.extractLsb' 0 4

/-- `CMD[7:4]`. -/
def cmdDlc (cmd : BitVec 64) : BitVec 4 := cmd.extractLsb' 4 4

/-- `CMD[15:8]`, which only NODEID_SET reads whole. -/
def cmdId (cmd : BitVec 64) : BitVec 8 := cmd.extractLsb' 8 8

/-- `CMD[14:8]`, the slave or master ID of every other command. -/
def cmdNode (cmd : BitVec 64) : BitVec 7 := cmd.extractLsb' 8 7

/-- `CMD[17:16]`. -/
def cmdTos (cmd : BitVec 64) : BitVec 2 := cmd.extractLsb' 16 2

/-- `CMD[47:32]`. -/
def cmdControl (cmd : BitVec 64) : BitVec 16 := cmd.extractLsb' 32 16

/-- The command word of its fields, reserved bits zero (30_encoding.md R79, R86). -/
def cmdWord (op dlc : BitVec 4) (id : BitVec 8) (tos : BitVec 2) (control : BitVec 16) : BitVec 64 :=
  op.setWidth 64 ||| (dlc.setWidth 64 <<< 4) ||| (id.setWidth 64 <<< 8) ||| (tos.setWidth 64 <<< 16)
    ||| (control.setWidth 64 <<< 32)

/-! ### The decoder -/

/-- Why the decoder refuses what it is given. -/
inductive DecodeError where
  /-- A frame with `ide = 0` is not an MBNet frame (30_encoding.md R72). -/
  | standardFrame
  /-- A frame with `rtr = 1` is not an MBNet frame (30_encoding.md R72). -/
  | remoteFrame
deriving DecidableEq, Repr

/-- A command word: every one of the 16 opcodes is a row, the reserved bits are ignored
(30_encoding.md R79, R81, R84). -/
def decodeCommand (cmd data : BitVec 64) : Instr :=
  if cmdOp cmd = 0x0 then .init
  else if cmdOp cmd = 0x1 then .nodeidSet (cmdId cmd)
  else if cmdOp cmd = 0x2 then .nodeidGet
  else if cmdOp cmd = 0x3 then
    .sendReq (cmdNode cmd) (cmdTos cmd) (cmdControl cmd) (cmdDlc cmd) (Message.ofData data)
  else if cmdOp cmd = 0x4 then .sendReqAgain (cmdNode cmd)
  else if cmdOp cmd = 0x5 then .waitAckNb (cmdNode cmd)
  else if cmdOp cmd = 0x6 then .waitAck (cmdNode cmd)
  else if cmdOp cmd = 0x7 then
    .sendAck (cmdNode cmd) (cmdTos cmd) (cmdDlc cmd) (Message.ofData data)
  else if cmdOp cmd = 0x8 then .slaveInfoGet (cmdNode cmd)
  else if cmdOp cmd = 0x9 then .handler
  else if cmdOp cmd = 0xA then .reservedA
  else if cmdOp cmd = 0xB then .reservedB
  else if cmdOp cmd = 0xC then .reservedC
  else if cmdOp cmd = 0xD then .reservedD
  else if cmdOp cmd = 0xE then .reservedE
  else .reservedF

/-- The operands of a frame's row when the row leaves all of `control` free. -/
def frameOps (u : IdFields) (dlc : BitVec 4) (data : Message) : FrameOps :=
  ⟨u.control, u.ms, u.node, dlc, data⟩

/-- The operands of a frame's row when the row fixes the ETOS. -/
def etosOps (u : IdFields) (dlc : BitVec 4) (data : Message) : EtosOps :=
  ⟨u.control.extractLsb' 8 8, u.ms, u.node, dlc, data⟩

/-- The ETOS of a request, `control[7:0]` (30_encoding.md R76, R77). -/
def etosOf (control : BitVec 16) : BitVec 8 := control.extractLsb' 0 8

/-- A SPECIAL request by its ETOS, the built-in codes first (30_encoding.md R76, R78). -/
def decodeEtos (u : IdFields) (dlc : BitVec 4) (data : Message) : Instr :=
  if etosOf u.control = 0x00 then .etosLock (etosOps u dlc data)
  else if etosOf u.control = 0x01 then .etosUnlock (etosOps u dlc data)
  else if etosOf u.control = 0x02 then .etosReserved02 (etosOps u dlc data)
  else if etosOf u.control = 0x03 then .etosReserved03 (etosOps u dlc data)
  else if etosOf u.control = 0x04 then .etosInitHook (etosOps u dlc data)
  else if etosOf u.control = 0x05 then .etosUnimplemented05 (etosOps u dlc data)
  else if etosOf u.control = 0x06 then .etosNotifyEvent (etosOps u dlc data)
  else if etosOf u.control = 0x07 then .etosNotifySysex (etosOps u dlc data)
  else if etosOf u.control = 0x08 then .etosDinToggle (etosOps u dlc data)
  else if etosOf u.control = 0x09 then .etosEncChange (etosOps u dlc data)
  else if etosOf u.control = 0x0a then .etosAinChange (etosOps u dlc data)
  else if etosOf u.control = 0x0b then .etosReserved0B (etosOps u dlc data)
  else if etosOf u.control = 0x0c then .etosReserved0C (etosOps u dlc data)
  else if etosOf u.control = 0x0d then .etosReserved0D (etosOps u dlc data)
  else if etosOf u.control = 0x0e then .etosReserved0E (etosOps u dlc data)
  else if etosOf u.control = 0x0f then .etosClone (etosOps u dlc data)
  else if u.control.getLsbD 7 then .etosApp1 (frameOps u dlc data)
  else if u.control.getLsbD 6 then .etosApp2 (frameOps u dlc data)
  else if u.control.getLsbD 5 then .etosApp3 (frameOps u dlc data)
  else .etosApp4 (frameOps u dlc data)

/-- A request by its `tos` (30_encoding.md R74). -/
def decodeRequest (u : IdFields) (dlc : BitVec 4) (data : Message) : Instr :=
  if u.tos = 0 then decodeEtos u dlc data
  else if u.tos = 1 then .ramRead (frameOps u dlc data)
  else if u.tos = 2 then .ramWrite (frameOps u dlc data)
  else .ping (frameOps u dlc data)

/-- An acknowledge by its `tos` (30_encoding.md R75). -/
def decodeAck (u : IdFields) (dlc : BitVec 4) (data : Message) : Instr :=
  if u.tos = 0 then .ackOk (frameOps u dlc data)
  else if u.tos = 1 then .ackRead (frameOps u dlc data)
  else if u.tos = 2 then .ackRetry (frameOps u dlc data)
  else .ackError (frameOps u dlc data)

/-- A received frame (30_encoding.md R72, R73, R78). -/
def decodeFrame (f : Frame) : Except DecodeError Instr :=
  if f.ide = false then .error .standardFrame
  else if f.rtr = true then .error .remoteFrame
  else if (unpack f.id).ack = 0 then .ok (decodeRequest (unpack f.id) f.dlc f.data)
  else .ok (decodeAck (unpack f.id) f.dlc f.data)

/-- The decoder. -/
def decode : Words → Except DecodeError Instr
  | .command cmd data => .ok (decodeCommand cmd data)
  | .frame f => decodeFrame f

/-! ### The encoder -/

/-- An extended data frame (30_encoding.md R72). -/
def mbnetFrame (u : IdFields) (dlc : BitVec 4) (data : Message) : Frame :=
  ⟨true, false, pack u, dlc, data⟩

/-- The frame of a SPECIAL request with a built-in ETOS code. -/
def encodeEtos (etos : BitVec 8) (q : EtosOps) : Words :=
  .frame (mbnetFrame ⟨(q.controlHigh ++ etos).cast (by rfl), 0, q.ms, q.node, 0⟩ q.dlc q.data)

/-- The frame of any other row, by its `tos` and `ack`. -/
def encodeFrame (tos : BitVec 2) (ack : BitVec 1) (q : FrameOps) : Words :=
  .frame (mbnetFrame ⟨q.control, tos, q.ms, q.node, ack⟩ q.dlc q.data)

/-- A command whose only operand is a 7-bit ID or none; DATA is not read. -/
def encodeCommand (op : BitVec 4) (id : BitVec 8) : Words := .command (cmdWord op 0 id 0 0) 0

/-- The words of a well-formed instruction (30_encoding.md R70, R76, R79 to R81). -/
def encode : Instr → Words
  | .init => encodeCommand 0x0 0
  | .nodeidSet id => encodeCommand 0x1 id
  | .nodeidGet => encodeCommand 0x2 0
  | .sendReq slave tos control dlc msg =>
      .command (cmdWord 0x3 dlc (slave.setWidth 8) tos control) msg.toData
  | .sendReqAgain slave => encodeCommand 0x4 (slave.setWidth 8)
  | .waitAckNb slave => encodeCommand 0x5 (slave.setWidth 8)
  | .waitAck slave => encodeCommand 0x6 (slave.setWidth 8)
  | .sendAck master tos dlc msg => .command (cmdWord 0x7 dlc (master.setWidth 8) tos 0) msg.toData
  | .slaveInfoGet slave => encodeCommand 0x8 (slave.setWidth 8)
  | .handler => encodeCommand 0x9 0
  | .reservedA => encodeCommand 0xA 0
  | .reservedB => encodeCommand 0xB 0
  | .reservedC => encodeCommand 0xC 0
  | .reservedD => encodeCommand 0xD 0
  | .reservedE => encodeCommand 0xE 0
  | .reservedF => encodeCommand 0xF 0
  | .etosLock q => encodeEtos 0x00 q
  | .etosUnlock q => encodeEtos 0x01 q
  | .etosReserved02 q => encodeEtos 0x02 q
  | .etosReserved03 q => encodeEtos 0x03 q
  | .etosInitHook q => encodeEtos 0x04 q
  | .etosUnimplemented05 q => encodeEtos 0x05 q
  | .etosNotifyEvent q => encodeEtos 0x06 q
  | .etosNotifySysex q => encodeEtos 0x07 q
  | .etosDinToggle q => encodeEtos 0x08 q
  | .etosEncChange q => encodeEtos 0x09 q
  | .etosAinChange q => encodeEtos 0x0a q
  | .etosReserved0B q => encodeEtos 0x0b q
  | .etosReserved0C q => encodeEtos 0x0c q
  | .etosReserved0D q => encodeEtos 0x0d q
  | .etosReserved0E q => encodeEtos 0x0e q
  | .etosClone q => encodeEtos 0x0f q
  | .etosApp1 q => encodeFrame 0 0 q
  | .etosApp2 q => encodeFrame 0 0 q
  | .etosApp3 q => encodeFrame 0 0 q
  | .etosApp4 q => encodeFrame 0 0 q
  | .ramRead q => encodeFrame 1 0 q
  | .ramWrite q => encodeFrame 2 0 q
  | .ping q => encodeFrame 3 0 q
  | .ackOk q => encodeFrame 0 1 q
  | .ackRead q => encodeFrame 1 1 q
  | .ackRetry q => encodeFrame 2 1 q
  | .ackError q => encodeFrame 3 1 q

/-! ### The assembler (30_encoding.md R86) -/

/-- The request tos a name or number stands for (30_encoding.md R74). -/
def ReqTos.value : ReqTos → BitVec 2
  | .special => 0
  | .ramRead => 1
  | .ramWrite => 2
  | .ping => 3
  | .number v => v

/-- The acknowledge tos a name or number stands for (30_encoding.md R75). -/
def AckTos.value : AckTos → BitVec 2
  | .ok => 0
  | .read => 1
  | .retry => 2
  | .error => 3
  | .number v => v

/-- A bracketed data list; bytes left out are zero. -/
def Message.ofBytes (bs : List Byte) : Message :=
  ⟨bs.getD 0 0, bs.getD 1 0, bs.getD 2 0, bs.getD 3 0, bs.getD 4 0, bs.getD 5 0, bs.getD 6 0, bs.getD 7 0⟩

/-- The instruction a line of assembler text stands for. -/
def AsmLine.instr : AsmLine → Instr
  | .init => .init
  | .nodeidSet id => .nodeidSet id
  | .nodeidGet => .nodeidGet
  | .sendReq slave tos control dlc data => .sendReq slave tos.value control dlc (Message.ofBytes data)
  | .sendReqAgain slave => .sendReqAgain slave
  | .waitAckNb slave => .waitAckNb slave
  | .waitAck slave => .waitAck slave
  | .sendAck master tos dlc data => .sendAck master tos.value dlc (Message.ofBytes data)
  | .slaveInfoGet slave => .slaveInfoGet slave
  | .handler => .handler

/-- A line assembles to CMD by R79 and DATA by R80. -/
def assemble (l : AsmLine) : Words := encode l.instr

/-! ### The opcode table -/

/-- How a row of spec/opcode_table.json recognises its words: a command row by `CMD[3:0]`
(30_encoding.md R81), a frame row by `match` and `mask` over the identifier (R78). -/
inductive Row where
  | command (op : BitVec 4)
  | frame (value mask : BitVec 29)
deriving DecidableEq, Repr

/-- The row of an instruction, transcribed from spec/opcode_table.json. -/
def Instr.row : Instr → Row
  | .init => .command 0x0
  | .nodeidSet _ => .command 0x1
  | .nodeidGet => .command 0x2
  | .sendReq _ _ _ _ _ => .command 0x3
  | .sendReqAgain _ => .command 0x4
  | .waitAckNb _ => .command 0x5
  | .waitAck _ => .command 0x6
  | .sendAck _ _ _ _ => .command 0x7
  | .slaveInfoGet _ => .command 0x8
  | .handler => .command 0x9
  | .reservedA => .command 0xA
  | .reservedB => .command 0xB
  | .reservedC => .command 0xC
  | .reservedD => .command 0xD
  | .reservedE => .command 0xE
  | .reservedF => .command 0xF
  | .etosLock _ => .frame 0x00000000 0x001FF801
  | .etosUnlock _ => .frame 0x00002000 0x001FF801
  | .etosReserved02 _ => .frame 0x00004000 0x001FF801
  | .etosReserved03 _ => .frame 0x00006000 0x001FF801
  | .etosInitHook _ => .frame 0x00008000 0x001FF801
  | .etosUnimplemented05 _ => .frame 0x0000A000 0x001FF801
  | .etosNotifyEvent _ => .frame 0x0000C000 0x001FF801
  | .etosNotifySysex _ => .frame 0x0000E000 0x001FF801
  | .etosDinToggle _ => .frame 0x00010000 0x001FF801
  | .etosEncChange _ => .frame 0x00012000 0x001FF801
  | .etosAinChange _ => .frame 0x00014000 0x001FF801
  | .etosReserved0B _ => .frame 0x00016000 0x001FF801
  | .etosReserved0C _ => .frame 0x00018000 0x001FF801
  | .etosReserved0D _ => .frame 0x0001A000 0x001FF801
  | .etosReserved0E _ => .frame 0x0001C000 0x001FF801
  | .etosClone _ => .frame 0x0001E000 0x001FF801
  | .etosApp1 _ => .frame 0x00100000 0x00101801
  | .etosApp2 _ => .frame 0x00080000 0x00181801
  | .etosApp3 _ => .frame 0x00040000 0x001C1801
  | .etosApp4 _ => .frame 0x00020000 0x001E1801
  | .ramRead _ => .frame 0x00000800 0x00001801
  | .ramWrite _ => .frame 0x00001000 0x00001801
  | .ping _ => .frame 0x00001800 0x00001801
  | .ackOk _ => .frame 0x00000001 0x00001801
  | .ackRead _ => .frame 0x00000801 0x00001801
  | .ackRetry _ => .frame 0x00001001 0x00001801
  | .ackError _ => .frame 0x00001801 0x00001801

/-- The words lie in the row. -/
def Row.holds : Row → Words → Bool
  | .command op, .command cmd _ => cmd &&& 0xF == op.setWidth 64
  | .frame value mask, .frame f => f.id &&& mask == value
  | .command _, .frame _ => false
  | .frame _ _, .command _ _ => false

/-- Two frame rows have no identifier in common: some bit that both fix, they fix differently. -/
def Row.disjoint : Row → Row → Bool
  | .command a, .command b => a != b
  | .frame v m, .frame w n => (v &&& (m &&& n)) != (w &&& (m &&& n))
  | .command _, .frame _ _ => true
  | .frame _ _, .command _ => true

/-! ### Table words -/

/-- The words a row's bits stand for (log 5): up to one byte, or more than 32 bits, is a command word
with its DATA above bit 63; otherwise the bits are a FrameID of an MBNet frame with `dlc = 0`. -/
def tableWords (nbits w : Nat) : Words :=
  if nbits ≤ 8 ∨ 32 < nbits then .command (BitVec.ofNat 64 w) (BitVec.ofNat 64 (w >>> 64))
  else .frame ⟨true, false, BitVec.ofNat 29 w, 0, Message.zero⟩

/-- The instruction the decoder reads from a row's bits. -/
def decodeTableWord (nbits w : Nat) : Option Instr :=
  match decode (tableWords nbits w) with
  | .ok i => some i
  | .error _ => none

end Sys2Proof
end

