-- ==== Sys2Proof/Machine/State.lean ====
section
/-! DEFINITION. Everything the spec gives the machine, as plain data (10_state.md), the reasons a
step can stop, and the state after power-on. -/

namespace Sys2Proof.Machine

/-! ### Registers -/

/-- The status codes of 30_encoding.md R83. -/
inductive Status where
  | success
  | pending
  | retryRequested
  | timeout
  | notConfigured
  | notMaster
  | sequenceError
  | invalidTarget
  | invalidId
  | outOfRange
  | notFound
  | invalidLength
  | illegalCommand
deriving DecidableEq, Repr

/-- The result registers RES_STATUS, RES_ID, RES_DLC, RES_TOS and RES_DATA (10_state.md R31). -/
structure Result where
  status : Status
  id : BitVec 8
  dlc : BitVec 4
  tos : BitVec 2
  data : Message
deriving DecidableEq, Repr

/-- PENDING, the single in-flight request (10_state.md R25). -/
structure Pending where
  valid : Bool
  slaveId : BitVec 7
  fid : BitVec 29
  msg : Message
  dlc : BitVec 4
deriving DecidableEq, Repr

/-- One entry of SLAVE_INDEX (10_state.md R26). -/
inductive IndexEntry where
  | unresolved (n : Nat)
  | found (i : Nat)
  | absent
deriving DecidableEq, Repr

/-- One entry of SLAVE_RECORD (10_state.md R27). -/
structure SlaveRecord where
  valid : Bool
  pong : Message
deriving DecidableEq, Repr

/-- A transmit slot TX[k] (10_state.md R34). -/
inductive Slot where
  | free
  | busy (f : Frame)
deriving DecidableEq, Repr

/-! ### Call events and the observation record -/

/-- The hook kinds of 30_encoding.md R87. -/
inductive HookKind where
  | init
  | event
  | sysex
  | din
  | enc
  | ain
deriving DecidableEq, Repr

/-- What the CORE passes to `Call` (30_encoding.md R87). -/
inductive CallEvent where
  | callback (master : BitVec 7) (tos : BitVec 2) (control : BitVec 16) (msg : Message) (dlc : BitVec 4)
  | hook (kind : HookKind) (master : BitVec 7) (msg : Message) (dlc : BitVec 4)
deriving DecidableEq, Repr

/-- One entry of the observation of a run (00_scope.md R11, 10_state.md R32): a command result
returned to the HOST, a frame handed to `Transmit`, an event passed to `Call`, or the log event
`DiscardedAck(f)`. -/
inductive Observation where
  | result (r : Result)
  | transmit (f : Frame)
  | call (ev : CallEvent)
  | discardedAck (f : Frame)
deriving DecidableEq, Repr

/-! ### The control point (10_state.md R21) -/

/-- The command that is running and the interaction primitive it has reached, with the locals of its
pseudocode that it still needs. -/
inductive Point where
  /-- SEND_REQ at `Transmit(f)`. -/
  | sendReq (slave : BitVec 7) (f : Frame)
  /-- SEND_REQ_AGAIN at `Transmit(f)`. -/
  | sendReqAgain (f : Frame)
  /-- WAIT_ACK at `PollAck`. -/
  | waitAck (slave : BitVec 7)
  /-- WAIT_ACK at the `Transmit(f)` of its resend. -/
  | waitAckResend (slave : BitVec 7) (f : Frame)
  /-- SEND_ACK at `Transmit(f)`. -/
  | sendAck (f : Frame)
  /-- HANDLER, SCAN_STEP: the probe of candidate `c` at `Transmit(f)`; `n` is the incremented count. -/
  | probeSend (c : BitVec 7) (n : Nat) (f : Frame)
  /-- HANDLER, SCAN_STEP: the probe of `c` at `PollAck`. -/
  | probeWait (c : BitVec 7) (n : Nat)
  /-- HANDLER, SCAN_STEP: the probe of `c` at the `Transmit(f)` of a resend. -/
  | probeResend (c : BitVec 7) (n : Nat) (f : Frame)
  /-- HANDLER, DRAIN at `PollReq`. -/
  | drain
  /-- HANDLER, REPLY at `Transmit(f)`. -/
  | reply (f : Frame)
deriving DecidableEq, Repr

/-- The `Call` that HANDLER holds at: its event, and the master that gets `REPLY(OK)` when the HOST
returns (none for a forwarded request, whose acknowledge the callback owns; 44_dispatcher.md R245). -/
structure HeldCall where
  event : CallEvent
  replyTo : Option (BitVec 7)
deriving DecidableEq, Repr

/-! ### Inputs still to come (log 1) -/

/-- What the HOST does when it has the turn: issue a command word with its data operand, or return
from the `Call` with a status (00_scope.md R8, R9). -/
inductive HostAction where
  | command (cmd data : BitVec 64)
  | ret (status : Int)
deriving DecidableEq, Repr

/-- The BUS's draws (00_scope.md R10): deliver a frame, take the frame of slot `k` to the wire, or let
the CORE or the HOST take the next step. -/
inductive BusAction where
  | deliver (f : Frame)
  | sent (k : Nat)
  | yield
deriving DecidableEq, Repr

/-! ### The state -/

/-- The machine. -/
structure State where
  /-- The implementation parameters (00_scope.md R6, 10_state.md R37); no step changes them. -/
  params : Params
  /-- CONFIGURED (R22). -/
  configured : Bool
  /-- NODE_ID (R22). -/
  nodeId : BitVec 7
  /-- PENDING (R25). -/
  pending : Pending
  /-- SLAVE_INDEX, the entry of candidate `SCAN_FIRST + j` at position `j` (R26). -/
  slaveIndex : List IndexEntry
  /-- SLAVE_RECORD (R27). -/
  slaveRecord : List SlaveRecord
  /-- SCAN_CURSOR (R28). -/
  scanCursor : BitVec 7
  /-- LOCKED; none also where it does not exist (R29, log 8). -/
  locked : Option (BitVec 3)
  /-- BUDGET; none where it does not exist (R30, log 8). -/
  budget : Option Nat
  /-- RES_STATUS, RES_ID, RES_DLC, RES_TOS, RES_DATA (R31). -/
  res : Result
  /-- The running command at the primitive it has reached; none when the HOST has the turn (R21). -/
  run : Option Point
  /-- The `Call` that HANDLER holds at; commands issued under it have depth 1 (R21). -/
  outer : Option HeldCall
  /-- RQ, oldest frame first (R33). -/
  rq : List Frame
  /-- AQ, oldest frame first (R33). -/
  aq : List Frame
  /-- TX[0] to TX[TX_SLOTS - 1] (R34). -/
  tx : List Slot
  /-- The frames the BUS has put on the wire, oldest first (40_codec.md R109, log 7). -/
  wire : List Frame
  /-- The observation record, oldest first (R32). -/
  record : List Observation
  /-- What the HOST will do, in order (log 1). -/
  host : List HostAction
  /-- What the BUS will do, and where between the other agents' steps (log 1). -/
  bus : List BusAction
  /-- What the BUS does over and over once `bus` is at its end (log 1). -/
  busCycle : List BusAction
deriving DecidableEq, Repr

/-! ### Reasons to stop -/

/-- Faults. The CORE has none (60_exceptions.md R280); these mark uses of `exec` and of `step` that
no run from reset makes (log 6). Each is safe: the model stops where the machine has no behaviour. -/
inductive Fault where
  /-- Raised by a command's meaning when a command is running: the HOST may issue a command only while
  the CORE is idle or holds at a `Call` (00_scope.md R8). Safe. -/
  | portBusy
  /-- Raised by a received frame's meaning when no command is at the poll that returns such a frame:
  a request outside HANDLER's drain, an acknowledge outside WAIT_ACK and the probe. Safe. -/
  | notPolling
  /-- Raised by `step` when a polled frame is no MBNet frame, which the filters never accept
  (30_encoding.md R72). Safe. -/
  | undecodable (e : DecodeError)
deriving DecidableEq, Repr

/-- Refusals (60_exceptions.md R295): the model gives the run no meaning. -/
inductive Refusal where
  /-- Raised by `exec` for an instruction that has no meaning yet. Safe. -/
  | notModelled (mnemonic : String)
  /-- Raised by HANDLER issued during a `Call` (44_dispatcher.md R238). Safe: the spec refuses it. -/
  | nestedHandler
  /-- Raised by INIT issued during a `Call` (41_node_identity.md R130). Safe: the spec refuses it. -/
  | nestedInit
deriving DecidableEq, Repr

/-! ### Reset -/

/-- The result registers after reset: all zero (10_state.md R31, R39). -/
def Result.zero : Result := ⟨.success, 0, 0, 0, Message.zero⟩

/-- PENDING after reset (10_state.md R39). -/
def Pending.none : Pending := ⟨false, 0, 0, Message.zero, 0⟩

/-- SLAVE_INDEX after reset (10_state.md R39). -/
def initialIndex (p : Params) : List IndexEntry := List.replicate p.rangeSize (.unresolved 0)

/-- SLAVE_RECORD after reset (10_state.md R39). -/
def initialRecords (p : Params) : List SlaveRecord :=
  List.replicate p.slaveTableCapacity ⟨false, Message.zero⟩

/-- The machine with parameters `p` right after power-on (10_state.md R39, 70_reset_and_hazards.md
R310, R311), with no input to come. -/
def State.powerOn (p : Params) : State where
  params := p
  configured := false
  nodeId := 0
  pending := Pending.none
  slaveIndex := initialIndex p
  slaveRecord := initialRecords p
  scanCursor := p.scanFirst
  locked := none
  budget := none
  res := Result.zero
  run := none
  outer := none
  rq := []
  aq := []
  tx := List.replicate p.txSlots .free
  wire := []
  record := []
  host := []
  bus := []
  busCycle := []

/-- The machine right after reset. -/
def State.reset : State := State.powerOn Config.params

end Sys2Proof.Machine
end

