-- ==== Sys2Proof/Machine/Flags.lean ====
section
/-! DEFINITION. The CORE has no condition flags (10_state.md R35); the status code is the only
condition the HOST reads. This file gives the codes, the result registers a command writes and the
result word. -/

namespace Sys2Proof.Machine

/-- The 4-bit code of a status (30_encoding.md R83). -/
def Status.code : Status → BitVec 4
  | .success => 0x0
  | .pending => 0x1
  | .retryRequested => 0x2
  | .timeout => 0x3
  | .notConfigured => 0x4
  | .notMaster => 0x5
  | .sequenceError => 0x6
  | .invalidTarget => 0x7
  | .invalidId => 0x8
  | .outOfRange => 0x9
  | .notFound => 0xA
  | .invalidLength => 0xB
  | .illegalCommand => 0xC

/-- `Pending` and `RetryRequested` are not errors; codes 0x3 and above are (30_encoding.md R83). -/
def Status.isError (s : Status) : Bool := decide (3 ≤ s.code.toNat)

/-- The result of a command that names no output: its status, and zero in every other result register
(10_state.md R31). -/
def Result.ofStatus (s : Status) : Result := ⟨s, 0, 0, 0, Message.zero⟩

/-- The result of NODEID_GET: a status and RES_ID (41_node_identity.md R132). -/
def Result.ofId (s : Status) (id : BitVec 8) : Result := ⟨s, id, 0, 0, Message.zero⟩

/-- The result of SLAVE_INFO_GET: `Success` and RES_DATA (43_discovery.md R196). -/
def Result.ofData (m : Message) : Result := ⟨.success, 0, 0, 0, m⟩

/-- The result of a received acknowledge: `Success`, RES_DATA, RES_DLC and RES_TOS
(42_master_request.md R152). -/
def Result.ofAck (m : Message) (dlc : BitVec 4) (tos : BitVec 2) : Result := ⟨.success, 0, dlc, tos, m⟩

/-- The result word RES (30_encoding.md R82). -/
def Result.word (r : Result) : BitVec 64 :=
  (r.tos.setWidth 64 <<< 16) ||| (r.id.setWidth 64 <<< 8) ||| (r.dlc.setWidth 64 <<< 4)
    ||| r.status.code.setWidth 64

end Sys2Proof.Machine
end

