-- ==== Sys2Proof/Machine/Operands.lean ====
section
/-! DEFINITION. How the operands of commands and frames are formed: the role of the node, the fields
of the frames the CORE builds, the payload of the frames it receives, and the overlays of a Message. -/

namespace Sys2Proof.Machine

/-! ### Role (60_exceptions.md R288, 10_state.md R23) -/

/-- A node ID that may act as master: `id & 0x0f == 0` (00_scope.md R15). -/
def isMasterId (id : BitVec 7) : Bool := id.extractLsb' 0 4 == 0

/-- IS_MASTER (R23). -/
def State.isMaster (s : State) : Bool := s.configured && isMasterId s.nodeId

/-- MY_MS, `NODE_ID[6:4]` (R23). -/
def State.myMs (s : State) : BitVec 3 := s.nodeId.extractLsb' 4 3

/-- The node roles (R288). -/
inductive Role where
  | unconfigured
  | slave
  | master
deriving DecidableEq, Repr

/-- The role follows `(CONFIGURED, NODE_ID)` (R288). -/
def State.role (s : State) : Role :=
  if s.configured then (if isMasterId s.nodeId then .master else .slave) else .unconfigured

/-! ### Frames (30_encoding.md R77) -/

/-- BUILD_FRAME (40_codec.md R107). -/
def buildFrame (id : BitVec 29) (msg : Message) (dlc : BitVec 4) : Frame :=
  ⟨true, false, id, dlc, msg.keep dlc.toNat⟩

/-- The FrameID of a request (R77): `ms = NODE_ID[6:4]`, `ack = 0`. -/
def State.requestId (s : State) (slave : BitVec 7) (tos : BitVec 2) (control : BitVec 16) : BitVec 29 :=
  pack ⟨control, tos, s.myMs, slave, 0⟩

/-- The FrameID of an acknowledge (R77): `control = zext_16(NODE_ID)`, `ms = 0`, `ack = 1`. -/
def State.ackId (s : State) (master : BitVec 7) (tos : BitVec 2) : BitVec 29 :=
  pack ⟨s.nodeId.setWidth 16, tos, 0, master, 1⟩

/-- The ID of the master that sent a request: `zext_7(ms) << 4` (R77). -/
def masterOf (ms : BitVec 3) : BitVec 7 := ms.setWidth 7 <<< 4

/-- RECEIVED_PAYLOAD (40_codec.md R111): the data bytes that travelled, zeros after them; the raw
`dlc` goes with it. -/
def receivedPayload (dlc : BitVec 4) (data : Message) : Message := data.keep (dataLength dlc)

/-- FROM_SLAVE (42_master_request.md R153). -/
def fromSlave (u : IdFields) (slave : BitVec 7) : Bool := u.control == slave.setWidth 16

/-- The received frame of an acknowledge row: its operands with the `tos` of the row (R75). -/
def ackFrame (q : FrameOps) (tos : BitVec 2) : Frame :=
  mbnetFrame ⟨q.control, tos, q.ms, q.node, 1⟩ q.dlc q.data

/-- OK as an acknowledge tos value (30_encoding.md R75). -/
def tosOk : BitVec 2 := 0

/-- READ as an acknowledge tos value (30_encoding.md R75). -/
def tosRead : BitVec 2 := 1

/-- RETRY as an acknowledge tos value (30_encoding.md R75). -/
def tosRetry : BitVec 2 := 2

/-- ERROR as an acknowledge tos value (30_encoding.md R75). -/
def tosError : BitVec 2 := 3

/-- PING as a request tos value (30_encoding.md R74). -/
def tosPing : BitVec 2 := 3

/-- The request that a SEND_REQ of frame `f` to `slave` leaves in PENDING (42_master_request.md R150). -/
def Pending.ofFrame (slave : BitVec 7) (f : Frame) : Pending := ⟨true, slave, f.id, f.data, f.dlc⟩

/-! ### Overlays (20_memory.md R52, R53) -/

/-- The word `w[j]` of a message, little-endian, for `j` in 0, 1 (R52). No rule of the CORE uses it. -/
def messageWord (m : Message) (j : Nat) : BitVec 32 := m.toData.extractLsb' (32 * j) 32

/-- The pong overlay (R53). The CORE does not interpret it. -/
structure PongView where
  protocolVersion : Byte
  nodeType0 : Byte
  nodeType1 : Byte
  nodeType2 : Byte
  nodeType3 : Byte
  nodeVersion : Byte
  nodeSubversion : Byte
  unnamed : Byte
deriving DecidableEq, Repr

/-- The fields of a pong, in the order R53 lists them. -/
def pongView (m : Message) : PongView := ⟨m.b0, m.b1, m.b2, m.b3, m.b4, m.b5, m.b6, m.b7⟩

end Sys2Proof.Machine
end

