-- ==== Sys2Proof/Machine/Ops.lean ====
section
/-! DEFINITION. The named operations over the state: the interaction primitives, the discovery
tables, how a command ends, how control passes to the HOST and back, and the polling steps that
several commands share. An operation that reaches an interaction primitive stops there (log 2). -/

namespace Sys2Proof.Machine

/-- The outcome of a meaning. -/
abbrev Out := Host.Outcome State Fault Refusal

/-! ### Views -/

/-- The control point's depth (10_state.md R21): 1 for a command issued during a `Call`. -/
def State.depth (s : State) : Nat := if s.outer.isSome then 1 else 0

/-- The frames handed to `Transmit`, in order (10_state.md R32). -/
def State.txRecord (s : State) : List Frame :=
  s.record.filterMap fun | .transmit f => some f | _ => none

/-- The events passed to `Call`, in order (10_state.md R32). -/
def State.callRecord (s : State) : List CallEvent :=
  s.record.filterMap fun | .call ev => some ev | _ => none

/-- The log of discarded acknowledges, in order (10_state.md R32). -/
def State.logRecord (s : State) : List Frame :=
  s.record.filterMap fun | .discardedAck f => some f | _ => none

/-- The command results returned to the HOST, in order (00_scope.md R11). -/
def State.results (s : State) : List Result :=
  s.record.filterMap fun | .result r => some r | _ => none

/-! ### Filter and receive queues (40_codec.md R104 to R106, R110) -/

/-- Where a received frame goes (R104). -/
inductive Route where
  | toRq
  | toAq
  | drop
deriving DecidableEq, Repr

/-- FILTER_MATCH (R104). -/
def State.filterMatch (s : State) (f : Frame) : Route :=
  if s.configured = false then .drop
  else if f.ide = false ∨ f.rtr = true then .drop
  else if (unpack f.id).node ≠ s.nodeId then .drop
  else if (unpack f.id).ack = 0 then .toRq
  else .toAq

/-- Enqueue into a receive queue of bounded depth (R106). -/
def enqueue (p : Params) (q : List Frame) (f : Frame) : List Frame :=
  if q.length < p.rxqDepth then q ++ [f]
  else match p.rxqOverrun with
    | .dropNew => q
    | .dropOldest => q.tail ++ [f]

/-- A frame as the node receives it: bytes that did not travel read as zero (00_scope.md R14). -/
def receivedFrame (f : Frame) : Frame := { f with data := receivedPayload f.dlc f.data }

/-- The BUS delivers a frame (R105). -/
def State.deliver (s : State) (f : Frame) : State :=
  match s.filterMatch f with
  | .toRq => { s with rq := enqueue s.params s.rq (receivedFrame f) }
  | .toAq => { s with aq := enqueue s.params s.aq (receivedFrame f) }
  | .drop => s

/-! ### Transmit slots (40_codec.md R108, R109) -/

/-- Put a frame into the lowest-numbered free slot; none when no slot is free (R108). -/
def placeFrame (f : Frame) : List Slot → Option (List Slot)
  | [] => none
  | .free :: rest => some (.busy f :: rest)
  | .busy g :: rest => (placeFrame f rest).map (Slot.busy g :: ·)

/-- `Transmit(f)` when a slot is free; none when it holds (R108). -/
def State.transmit (s : State) (f : Frame) : Option State :=
  match placeFrame f s.tx with
  | some tx => some { s with tx := tx, record := s.record ++ [.transmit f] }
  | none => none

/-- The BUS takes the frame of slot `k` to the wire (R109); nothing where the slot is not busy (log 4). -/
def State.sendSlot (s : State) (k : Nat) : State :=
  match s.tx[k]? with
  | some (.busy f) => { s with tx := s.tx.set k .free, wire := s.wire ++ [f] }
  | _ => s

/-! ### How a command ends, and the log -/

/-- `return S(outputs)` (00_scope.md R13, 10_state.md R21, R31): write the result registers, report
the result, and give the turn back to the HOST (at the enclosing `Call`, or idle). -/
def State.finish (s : State) (r : Result) : State :=
  { s with res := r, run := none, record := s.record ++ [.result r] }

/-- `Log(DiscardedAck(f))` (40_codec.md R112). -/
def State.logDiscard (s : State) (f : Frame) : State :=
  { s with record := s.record ++ [.discardedAck f] }

/-- The running command stops at the primitive of `p`. -/
def State.stopAt (s : State) (p : Point) : State := { s with run := some p }

/-- Execute `Transmit(f)` for the command at `p` and go on with `k`; hold at `p` while no slot is free. -/
def State.attempt (s : State) (f : Frame) (p : Point) (k : State → State) : State :=
  match s.transmit f with
  | some t => k t
  | none => s.stopAt p

/-- Every command begins here: the HOST may issue it only while no command runs (00_scope.md R8). -/
def State.issue (s : State) (k : State → Out) : Out :=
  match s.run with
  | some _ => .fault .portBusy
  | none => k s

/-! ### Checks and frames of the sending commands -/

/-- The frame of a request, unchecked (42_master_request.md R150). -/
def State.requestFrame (s : State) (slave : BitVec 7) (tos : BitVec 2) (control : BitVec 16)
    (dlc : BitVec 4) (msg : Message) : Frame :=
  buildFrame (s.requestId slave tos control) msg dlc

/-- The checks of SEND_REQ in their order, and the frame it sends (R150). -/
def State.sendReqFrame (s : State) (slave : BitVec 7) (tos : BitVec 2) (control : BitVec 16)
    (dlc : BitVec 4) (msg : Message) : Except Status Frame :=
  if s.configured = false then .error .notConfigured
  else if isMasterId s.nodeId = false then .error .notMaster
  else if 8 < dlc.toNat then .error .invalidLength
  else .ok (s.requestFrame slave tos control dlc msg)

/-- The checks of SEND_REQ_AGAIN in their order, and the frame it resends (R151). -/
def State.resendFrame (s : State) (slave : BitVec 7) : Except Status Frame :=
  if s.configured = false then .error .notConfigured
  else if isMasterId s.nodeId = false then .error .notMaster
  else if s.pending.valid = false ∨ s.pending.slaveId ≠ slave then .error .sequenceError
  else .ok (buildFrame s.pending.fid s.pending.msg s.pending.dlc)

/-- The checks of SEND_ACK in their order, and the frame it sends (45_ack_responder.md R270). -/
def State.sendAckFrame (s : State) (master : BitVec 7) (tos : BitVec 2) (dlc : BitVec 4)
    (msg : Message) : Except Status Frame :=
  if s.configured = false then .error .notConfigured
  else if isMasterId master = false then .error .invalidTarget
  else if 8 < dlc.toNat then .error .invalidLength
  else .ok (buildFrame (s.ackId master tos) msg dlc)

/-! ### Polling for an acknowledge (42_master_request.md R152 to R154) -/

/-- The steps of WAIT_ACK_NB on a dequeued frame (R152): its result, and the discard logged. -/
def State.receiveAck (s : State) (slave : BitVec 7) (f : Frame) : Result × State :=
  if fromSlave (unpack f.id) slave = false then (Result.ofStatus .pending, s.logDiscard f)
  else if (unpack f.id).tos = tosRetry then (Result.ofStatus .retryRequested, s)
  else (Result.ofAck (receivedPayload f.dlc f.data) f.dlc (unpack f.id).tos, s)

/-- The steps of WAIT_ACK_NB (R152): exactly one `PollAck`. -/
def State.pollAck (s : State) (slave : BitVec 7) : Result × State :=
  match s.aq with
  | [] => (Result.ofStatus .pending, s)
  | f :: q => { s with aq := q }.receiveAck slave f

/-- What WAIT_ACK's loop does after a poll. -/
inductive WaitNext where
  | poll
  | resend (f : Frame)
  | done (r : Result)
deriving DecidableEq, Repr

/-- WAIT_ACK's loop after a poll that answered `r` (R154). BUDGET ends with the command. -/
def State.afterPoll (s : State) (slave : BitVec 7) (r : Result) : WaitNext × State :=
  match r.status with
  | .success => (.done r, { s with budget := none })
  | .retryRequested =>
    match s.resendFrame slave with
    | .ok f => (.resend f, s)
    | .error e => (.done (Result.ofStatus e), { s with budget := none })
  | _ =>
    if s.budget.getD 0 - 1 = 0 then (.done (Result.ofStatus .timeout), { s with budget := none })
    else (.poll, { s with budget := some (s.budget.getD 0 - 1) })

/-- WAIT_ACK with the answer of a poll (R154): it polls again, resends, or returns. -/
def State.waitAckWith (slave : BitVec 7) (a : Result × State) : State :=
  match a.2.afterPoll slave a.1 with
  | (.poll, t) => t.stopAt (.waitAck slave)
  | (.resend f, t) => t.stopAt (.waitAckResend slave f)
  | (.done r, t) => t.finish r

/-- BUDGET at ACK_POLL_BUDGET: on entry to WAIT_ACK and after every retry (R154). -/
def State.refill (s : State) : State := { s with budget := some s.params.ackPollBudget }

/-! ### Discovery tables (43_discovery.md) -/

/-- SUCC (R191). -/
def candidateSucc (p : Params) (c : BitVec 7) : BitVec 7 := if c = p.scanLast then p.scanFirst else c + 1

/-- The ID is in the candidate range (00_scope.md R6). -/
def inCandidateRange (p : Params) (c : BitVec 7) : Bool :=
  decide (p.scanFirst.toNat ≤ c.toNat) && decide (c.toNat ≤ p.scanLast.toNat)

/-- SLAVE_INDEX[c] (10_state.md R26). -/
def State.indexOf (s : State) (c : BitVec 7) : Option IndexEntry :=
  if inCandidateRange s.params c then s.slaveIndex[c.toNat - s.params.scanFirst.toNat]? else none

/-- `SLAVE_INDEX[c] <- e`. -/
def State.setIndex (s : State) (c : BitVec 7) (e : IndexEntry) : State :=
  { s with slaveIndex := s.slaveIndex.set (c.toNat - s.params.scanFirst.toNat) e }

/-- The least `i` with `SLAVE_RECORD[i].valid = 0` (R194). -/
def firstInvalid : List SlaveRecord → Option Nat
  | [] => none
  | r :: rest => if r.valid then (firstInvalid rest).map (· + 1) else some 0

/-- ALLOCATE (R194). -/
def State.allocate (s : State) (c : BitVec 7) (pong : Message) : State :=
  match firstInvalid s.slaveRecord with
  | some i => { s with slaveRecord := s.slaveRecord.set i ⟨true, pong⟩ }.setIndex c (.found i)
  | none => s.setIndex c .absent

/-- What a failed probe leaves in SLAVE_INDEX[c], from the incremented count `n` (R192, R195). -/
def State.probeFailed (s : State) (c : BitVec 7) (n : Nat) : State :=
  s.setIndex c (if s.params.scanRetryLimit ≤ n then .absent else .unresolved n)

/-- The candidate that a SCAN_STEP examines: the cursor, or its successor when the cursor is at the
node's own ID (R192). -/
def State.scanCandidate (s : State) : BitVec 7 :=
  if s.scanCursor = s.nodeId then candidateSucc s.params s.scanCursor else s.scanCursor

/-- The cursor's one advance (R192). -/
def State.advanceCursor (s : State) : State :=
  { s with scanCursor := candidateSucc s.params s.scanCandidate }

/-- The candidate that a SCAN_STEP will probe and its incremented count, if it probes one (R192). -/
def State.scanProbe (s : State) : Option (BitVec 7 × Nat) :=
  if s.scanCandidate = s.nodeId then none
  else match s.indexOf s.scanCandidate with
    | some (.unresolved n) => some (s.scanCandidate, n + 1)
    | _ => none

/-! ### HANDLER's own transfers of control -/

/-- After the scanner: `LOCKED <- None`, then DRAIN at its `PollReq` (44_dispatcher.md R220). -/
def State.beginDrain (s : State) : State := { s with locked := none }.stopAt .drain

/-- DRAIN's `PollReq` on an empty RQ (R221): HANDLER ends while unlocked, and holds while locked. -/
def State.drainEmpty (s : State) : State :=
  match s.locked with
  | none => s.finish (Result.ofStatus .success)
  | some _ => s.stopAt .drain

/-- The probe's WAIT_ACK with the answer of a poll (43_discovery.md R192, R193). -/
def State.probeWith (c : BitVec 7) (n : Nat) (a : Result × State) : State :=
  match a.2.afterPoll c a.1 with
  | (.poll, t) => t.stopAt (.probeWait c n)
  | (.resend f, t) => t.stopAt (.probeResend c n f)
  | (.done r, t) =>
    if r.status = .success then (t.allocate c r.data).beginDrain else (t.probeFailed c n).beginDrain

/-- REPLY (44_dispatcher.md R244): the steps of SEND_ACK with `dlc = 0`, their status discarded; DRAIN
goes on when it is sent, or at once where nothing is sent. -/
def State.enterReply (s : State) (master : BitVec 7) (tos : BitVec 2) : State :=
  match s.sendAckFrame master tos 0 Message.zero with
  | .ok f => s.stopAt (.reply f)
  | .error _ => s.stopAt .drain

/-- `Call(ev)` (00_scope.md R9, 60_exceptions.md R286): the counterpart of taking a trap. The event is
recorded and the HOST gets the turn; no other state is saved or changed. -/
def State.enterCall (s : State) (ev : CallEvent) (replyTo : Option (BitVec 7)) : State :=
  { s with run := none, outer := some ⟨ev, replyTo⟩, record := s.record ++ [.call ev] }

/-- The HOST returns from the `Call` (60_exceptions.md R287): the counterpart of returning from a trap.
HANDLER resumes at the statement after the `Call`: `REPLY(OK)` after a hook, DRAIN after a callback.
The returned status is ignored. With no `Call` to return from, nothing happens (log 4). -/
def State.returnFromCall (s : State) : State :=
  match s.outer with
  | none => s
  | some h =>
    match h.replyTo with
    | some master => { s with outer := none }.enterReply master tosOk
    | none => { s with outer := none }.stopAt .drain

/-! ### Going on from an interaction primitive -/

/-- The running command executes the primitive it stands at and goes on to the next one, or to its
`return` (00_scope.md R8). -/
def State.resume (s : State) (p : Point) : State :=
  match p with
  | .sendReq slave f =>
    s.attempt f p fun t =>
      { t with pending := Pending.ofFrame slave f }.finish (Result.ofStatus .success)
  | .sendReqAgain f => s.attempt f p fun t => t.finish (Result.ofStatus .success)
  | .waitAck slave => State.waitAckWith slave (s.pollAck slave)
  | .waitAckResend slave f => s.attempt f p fun t => t.refill.stopAt (.waitAck slave)
  | .sendAck f => s.attempt f p fun t => t.finish (Result.ofStatus .success)
  | .probeSend c n f =>
    s.attempt f p fun t => { t with pending := Pending.ofFrame c f }.refill.stopAt (.probeWait c n)
  | .probeWait c n => State.probeWith c n (s.pollAck c)
  | .probeResend c n f => s.attempt f p fun t => t.refill.stopAt (.probeWait c n)
  | .drain => if s.rq = [] then s.drainEmpty else s.stopAt .drain
  | .reply f => s.attempt f p fun t => t.stopAt .drain

end Sys2Proof.Machine
end

