-- ==== Sys2Proof/Machine/AckFrames.lean ====
section
/-! DEFINITION. What the master request engine does with a dequeued acknowledge (42_master_request.md
R152 to R154, 43_discovery.md R193), one definition for each acknowledge row. -/

namespace Sys2Proof.Machine

/-- A dequeued acknowledge at the poll of WAIT_ACK or of the probe's WAIT_ACK: the sender test, then
the row's action, then the loop of the command that polled. -/
def State.takeAck (s : State) (f : Frame) : Out :=
  match s.run with
  | some (.waitAck slave) => .next (State.waitAckWith slave (s.receiveAck slave f))
  | some (.probeWait c n) => .next (State.probeWith c n (s.receiveAck c f))
  | _ => .fault .notPolling

/-- ACK_OK (R75, R152). -/
def execAckOk (q : FrameOps) (s : State) : Out := s.takeAck (ackFrame q tosOk)

/-- ACK_READ (R75, R152). -/
def execAckRead (q : FrameOps) (s : State) : Out := s.takeAck (ackFrame q tosRead)

/-- ACK_RETRY (R75, R152, R154). -/
def execAckRetry (q : FrameOps) (s : State) : Out := s.takeAck (ackFrame q tosRetry)

/-- ACK_ERROR (R75, R152). -/
def execAckError (q : FrameOps) (s : State) : Out := s.takeAck (ackFrame q tosError)

end Sys2Proof.Machine
end

