-- ==== Sys2Proof/Machine/AckResponder.lean ====
section
/-! DEFINITION. The acknowledge responder: SEND_ACK (45_ack_responder.md). -/

namespace Sys2Proof.Machine

/-- SEND_ACK (R270). -/
def execSendAck (master : BitVec 7) (tos : BitVec 2) (dlc : BitVec 4) (msg : Message) (s : State) : Out :=
  s.issue fun s => .next <|
    match s.sendAckFrame master tos dlc msg with
    | .error e => s.finish (Result.ofStatus e)
    | .ok f => s.resume (.sendAck f)

end Sys2Proof.Machine
end

