-- ==== Sys2Proof/Machine/Discovery.lean ====
section
/-! DEFINITION. Reading the discovery tables: SLAVE_INFO_GET (43_discovery.md R196). The scanner
itself runs inside HANDLER. -/

namespace Sys2Proof.Machine

/-- SLAVE_INFO_GET (R196). A table index that names no slot reads a zero pong; the invariant of
10_state.md R27 leaves no such index (log 9). -/
def execSlaveInfoGet (slave : BitVec 7) (s : State) : Out :=
  s.issue fun s => .next <|
    if s.configured = false then s.finish (Result.ofStatus .notConfigured)
    else if isMasterId s.nodeId = false then s.finish (Result.ofStatus .notMaster)
    else if inCandidateRange s.params slave = false then s.finish (Result.ofStatus .outOfRange)
    else match s.indexOf slave with
      | some (.found i) =>
        s.finish (Result.ofData ((s.slaveRecord[i]?.map SlaveRecord.pong).getD Message.zero))
      | _ => s.finish (Result.ofStatus .notFound)

end Sys2Proof.Machine
end

