-- ==== Sys2Proof/Machine/Dispatcher.lean ====
section
/-! DEFINITION. The slave request dispatcher: what HANDLER's drain does with a dequeued request
(44_dispatcher.md R221 to R242), one definition for each request row. -/

namespace Sys2Proof.Machine

/-- The lock arbiter in front of every request (R221, R222): at DRAIN, a request whose `ms` is not the
holder's gets `ACK_RETRY` and nothing else is done with it; any other request is dispatched. -/
def State.arbitrate (s : State) (ms : BitVec 3) (dispatch : State → State) : Out :=
  match s.run with
  | some .drain =>
    match s.locked with
    | some h => .next (if ms = h then dispatch s else s.enterReply (masterOf ms) tosRetry)
    | none => .next (dispatch s)
  | _ => .fault .notPolling

/-- A reserved, unimplemented or unsupported ETOS: `REPLY(ERROR)`, no hook, whatever the `dlc`. -/
def State.rejectEtos (s : State) (q : EtosOps) : Out :=
  s.arbitrate q.ms fun s => s.enterReply (masterOf q.ms) tosError

/-- The hook event of a built-in request. -/
def hookEvent (q : EtosOps) (kind : HookKind) : CallEvent :=
  .hook kind (masterOf q.ms) (receivedPayload q.dlc q.data) q.dlc

/-- A fixed-length ETOS (R231 to R235, R244): on the exact raw `dlc` the hook and then `REPLY(OK)`,
else `REPLY(ERROR)` with no hook. -/
def State.notifyHook (s : State) (q : EtosOps) (kind : HookKind) (len : Nat) : Out :=
  s.arbitrate q.ms fun s =>
    if q.dlc.toNat = len then s.enterCall (hookEvent q kind) (some (masterOf q.ms))
    else s.enterReply (masterOf q.ms) tosError

/-- The callback event of a forwarded request. -/
def callbackEvent (q : FrameOps) (tos : BitVec 2) : CallEvent :=
  .callback (masterOf q.ms) tos q.control (receivedPayload q.dlc q.data) q.dlc

/-- A forwarded request (R239 to R242, R245): the callback with the raw `dlc`, no reply. -/
def State.forward (s : State) (q : FrameOps) (tos : BitVec 2) : Out :=
  s.arbitrate q.ms fun s => s.enterCall (callbackEvent q tos) none

/-- ETOS 0x00, Lock (R225). -/
def execEtosLock (q : EtosOps) (s : State) : Out :=
  s.arbitrate q.ms fun s => { s with locked := some q.ms }.enterReply (masterOf q.ms) tosOk

/-- ETOS 0x01, Unlock (R226). -/
def execEtosUnlock (q : EtosOps) (s : State) : Out :=
  s.arbitrate q.ms fun s => { s with locked := none }.enterReply (masterOf q.ms) tosOk

/-- ETOS 0x02, reserved (R227). -/
def execEtosReserved02 (q : EtosOps) (s : State) : Out := s.rejectEtos q

/-- ETOS 0x03, reserved (R228). -/
def execEtosReserved03 (q : EtosOps) (s : State) : Out := s.rejectEtos q

/-- ETOS 0x04, Init (R229): the application's Init hook on any `dlc`, then `REPLY(OK)`. -/
def execEtosInitHook (q : EtosOps) (s : State) : Out :=
  s.arbitrate q.ms fun s => s.enterCall (hookEvent q .init) (some (masterOf q.ms))

/-- ETOS 0x05, unimplemented (R230). -/
def execEtosUnimplemented05 (q : EtosOps) (s : State) : Out := s.rejectEtos q

/-- ETOS 0x06, NotifyReceivedEvent (R231). -/
def execEtosNotifyEvent (q : EtosOps) (s : State) : Out := s.notifyHook q .event 3

/-- ETOS 0x07, NotifyReceivedSysEx (R232). -/
def execEtosNotifySysex (q : EtosOps) (s : State) : Out := s.notifyHook q .sysex 1

/-- ETOS 0x08, DIN toggle (R233). -/
def execEtosDinToggle (q : EtosOps) (s : State) : Out := s.notifyHook q .din 2

/-- ETOS 0x09, ENC change (R234). -/
def execEtosEncChange (q : EtosOps) (s : State) : Out := s.notifyHook q .enc 2

/-- ETOS 0x0a, AIN change (R235). -/
def execEtosAinChange (q : EtosOps) (s : State) : Out := s.notifyHook q .ain 3

/-- ETOS 0x0b, reserved (R236). -/
def execEtosReserved0B (q : EtosOps) (s : State) : Out := s.rejectEtos q

/-- ETOS 0x0c, reserved (R236). -/
def execEtosReserved0C (q : EtosOps) (s : State) : Out := s.rejectEtos q

/-- ETOS 0x0d, reserved (R236). -/
def execEtosReserved0D (q : EtosOps) (s : State) : Out := s.rejectEtos q

/-- ETOS 0x0e, reserved (R236). -/
def execEtosReserved0E (q : EtosOps) (s : State) : Out := s.rejectEtos q

/-- ETOS 0x0f, Clone (R237). -/
def execEtosClone (q : EtosOps) (s : State) : Out := s.rejectEtos q

/-- ETOS 0x80 to 0xff (R239). -/
def execEtosApp1 (q : FrameOps) (s : State) : Out := s.forward q 0

/-- ETOS 0x40 to 0x7f (R239). -/
def execEtosApp2 (q : FrameOps) (s : State) : Out := s.forward q 0

/-- ETOS 0x20 to 0x3f (R239). -/
def execEtosApp3 (q : FrameOps) (s : State) : Out := s.forward q 0

/-- ETOS 0x10 to 0x1f (R239). -/
def execEtosApp4 (q : FrameOps) (s : State) : Out := s.forward q 0

/-- RAM_READ (R240). -/
def execRamRead (q : FrameOps) (s : State) : Out := s.forward q 1

/-- RAM_WRITE (R241). -/
def execRamWrite (q : FrameOps) (s : State) : Out := s.forward q 2

/-- PING (R242). -/
def execPing (q : FrameOps) (s : State) : Out := s.forward q 3

end Sys2Proof.Machine
end

