-- ==== Sys2Proof/Machine/Handler.lean ====
section
/-! DEFINITION. HANDLER: the scanner step, then the drain of the request queue (44_dispatcher.md R220;
43_discovery.md R192). The frames that the drain dequeues are the rows of Dispatcher.lean. -/

namespace Sys2Proof.Machine

/-- HANDLER after a SCAN_STEP that probed nothing: unlocked, at DRAIN. The first `PollReq` of an empty
RQ ends the command; one that returns a frame is the fetch of that frame's row (log 2). -/
def State.startDrain (s : State) : State := { s with locked := none }.resume .drain

/-- SCAN_STEP up to its first interaction primitive, and DRAIN where it probes nothing (R192, R220).
The probe's request is SEND_REQ's frame: the role is already checked and `dlc = 0` (R193). -/
def State.startHandler (s : State) : State :=
  if s.isMaster then
    match s.scanProbe with
    | some (c, n) =>
      s.advanceCursor.resume (.probeSend c n (s.requestFrame c tosPing 0 0 Message.zero))
    | none => s.advanceCursor.startDrain
  else s.startDrain

/-- HANDLER (R220); refused during a `Call` (R238). -/
def execHandler (s : State) : Out :=
  s.issue fun s => if s.outer.isSome then .refused .nestedHandler else .next s.startHandler

end Sys2Proof.Machine
end

