-- ==== Sys2Proof/Machine/Identity.lean ====
section
/-! DEFINITION. Node identity commands: INIT, NODEID_SET, NODEID_GET (41_node_identity.md). -/

namespace Sys2Proof.Machine

/-- The reset action on the CORE's own state (70_reset_and_hazards.md R311). The BUS's queues and
slots (R312) and the observation record (10_state.md R32) are left as they are; LOCKED and BUDGET do
not exist outside their commands, so there is nothing to clear for them. -/
def State.resetCore (s : State) : State :=
  { s with
    configured := false
    nodeId := 0
    pending := Pending.none
    slaveIndex := initialIndex s.params
    slaveRecord := initialRecords s.params
    scanCursor := s.params.scanFirst
    res := Result.zero }

/-- INIT (R130); refused during a `Call` (44_dispatcher.md R238). -/
def execInit (s : State) : Out :=
  s.issue fun s =>
    if s.outer.isSome then .refused .nestedInit
    else .next (s.resetCore.finish (Result.ofStatus .success))

/-- NODEID_SET (R131). -/
def execNodeidSet (id : BitVec 8) (s : State) : Out :=
  s.issue fun s => .next <|
    if 128 ≤ id.toNat then s.finish (Result.ofStatus .invalidId)
    else { s with nodeId := id.setWidth 7, configured := true }.finish (Result.ofStatus .success)

/-- NODEID_GET (R132). -/
def execNodeidGet (s : State) : Out :=
  s.issue fun s => .next <|
    if s.configured = false then s.finish (Result.ofId .notConfigured 0xFF)
    else s.finish (Result.ofId .success (s.nodeId.setWidth 8))

end Sys2Proof.Machine
end

