-- ==== Sys2Proof/Machine/Request.lean ====
section
/-! DEFINITION. The master request engine: SEND_REQ, SEND_REQ_AGAIN, WAIT_ACK_NB, WAIT_ACK
(42_master_request.md). -/

namespace Sys2Proof.Machine

/-- SEND_REQ (R150). -/
def execSendReq (slave : BitVec 7) (tos : BitVec 2) (control : BitVec 16) (dlc : BitVec 4)
    (msg : Message) (s : State) : Out :=
  s.issue fun s => .next <|
    match s.sendReqFrame slave tos control dlc msg with
    | .error e => s.finish (Result.ofStatus e)
    | .ok f => s.resume (.sendReq slave f)

/-- SEND_REQ_AGAIN (R151). -/
def execSendReqAgain (slave : BitVec 7) (s : State) : Out :=
  s.issue fun s => .next <|
    match s.resendFrame slave with
    | .error e => s.finish (Result.ofStatus e)
    | .ok f => s.resume (.sendReqAgain f)

/-- WAIT_ACK_NB (R152): one poll, whose result is the command's. -/
def execWaitAckNb (slave : BitVec 7) (s : State) : Out :=
  s.issue fun s => .next ((s.pollAck slave).2.finish (s.pollAck slave).1)

/-- WAIT_ACK (R154): BUDGET at ACK_POLL_BUDGET, then the first poll of its loop. -/
def execWaitAck (slave : BitVec 7) (s : State) : Out :=
  s.issue fun s => .next (s.refill.resume (.waitAck slave))

end Sys2Proof.Machine
end

