-- ==== Sys2Proof/Machine/Reserved.lean ====
section
/-! DEFINITION. The reserved command opcodes 0xA to 0xF (60_exceptions.md R284). -/

namespace Sys2Proof.Machine

/-- A reserved opcode returns `IllegalCommand`, reads no operand and changes no state (R284). -/
def State.illegalCommand (s : State) : Out :=
  s.issue fun s => .next (s.finish (Result.ofStatus .illegalCommand))

/-- Opcode 0xA (R284). -/
def execReservedA (s : State) : Out := s.illegalCommand

/-- Opcode 0xB (R284). -/
def execReservedB (s : State) : Out := s.illegalCommand

/-- Opcode 0xC (R284). -/
def execReservedC (s : State) : Out := s.illegalCommand

/-- Opcode 0xD (R284). -/
def execReservedD (s : State) : Out := s.illegalCommand

/-- Opcode 0xE (R284). -/
def execReservedE (s : State) : Out := s.illegalCommand

/-- Opcode 0xF (R284). -/
def execReservedF (s : State) : Out := s.illegalCommand

end Sys2Proof.Machine
end

