-- ==== Sys2Proof/Machine/Dispatch.lean ====
section
/-! DEFINITION. One arm for each instruction, in the order of spec/opcode_table.json. -/

namespace Sys2Proof.Machine

/-- The meaning of an instruction. -/
def exec (i : Instr) (s : State) : Host.Outcome State Fault Refusal :=
  match i with
  | .init => Sys2Proof.Machine.execInit s
  | .nodeidSet id => Sys2Proof.Machine.execNodeidSet id s
  | .nodeidGet => Sys2Proof.Machine.execNodeidGet s
  | .sendReq slave tos control dlc msg => Sys2Proof.Machine.execSendReq slave tos control dlc msg s
  | .sendReqAgain slave => Sys2Proof.Machine.execSendReqAgain slave s
  | .waitAckNb slave => Sys2Proof.Machine.execWaitAckNb slave s
  | .waitAck slave => Sys2Proof.Machine.execWaitAck slave s
  | .sendAck master tos dlc msg => Sys2Proof.Machine.execSendAck master tos dlc msg s
  | .slaveInfoGet slave => Sys2Proof.Machine.execSlaveInfoGet slave s
  | .handler => Sys2Proof.Machine.execHandler s
  | .reservedA => Sys2Proof.Machine.execReservedA s
  | .reservedB => Sys2Proof.Machine.execReservedB s
  | .reservedC => Sys2Proof.Machine.execReservedC s
  | .reservedD => Sys2Proof.Machine.execReservedD s
  | .reservedE => Sys2Proof.Machine.execReservedE s
  | .reservedF => Sys2Proof.Machine.execReservedF s
  | .etosLock q => Sys2Proof.Machine.execEtosLock q s
  | .etosUnlock q => Sys2Proof.Machine.execEtosUnlock q s
  | .etosReserved02 q => Sys2Proof.Machine.execEtosReserved02 q s
  | .etosReserved03 q => Sys2Proof.Machine.execEtosReserved03 q s
  | .etosInitHook q => Sys2Proof.Machine.execEtosInitHook q s
  | .etosUnimplemented05 q => Sys2Proof.Machine.execEtosUnimplemented05 q s
  | .etosNotifyEvent q => Sys2Proof.Machine.execEtosNotifyEvent q s
  | .etosNotifySysex q => Sys2Proof.Machine.execEtosNotifySysex q s
  | .etosDinToggle q => Sys2Proof.Machine.execEtosDinToggle q s
  | .etosEncChange q => Sys2Proof.Machine.execEtosEncChange q s
  | .etosAinChange q => Sys2Proof.Machine.execEtosAinChange q s
  | .etosReserved0B q => Sys2Proof.Machine.execEtosReserved0B q s
  | .etosReserved0C q => Sys2Proof.Machine.execEtosReserved0C q s
  | .etosReserved0D q => Sys2Proof.Machine.execEtosReserved0D q s
  | .etosReserved0E q => Sys2Proof.Machine.execEtosReserved0E q s
  | .etosClone q => Sys2Proof.Machine.execEtosClone q s
  | .etosApp1 q => Sys2Proof.Machine.execEtosApp1 q s
  | .etosApp2 q => Sys2Proof.Machine.execEtosApp2 q s
  | .etosApp3 q => Sys2Proof.Machine.execEtosApp3 q s
  | .etosApp4 q => Sys2Proof.Machine.execEtosApp4 q s
  | .ramRead q => Sys2Proof.Machine.execRamRead q s
  | .ramWrite q => Sys2Proof.Machine.execRamWrite q s
  | .ping q => Sys2Proof.Machine.execPing q s
  | .ackOk q => Sys2Proof.Machine.execAckOk q s
  | .ackRead q => Sys2Proof.Machine.execAckRead q s
  | .ackRetry q => Sys2Proof.Machine.execAckRetry q s
  | .ackError q => Sys2Proof.Machine.execAckError q s

end Sys2Proof.Machine
end

