-- ==== Sys2Proof/Machine/Fetch.lean ====
section
/-! DEFINITION. Whose turn it is, what the machine fetches, what it does when it fetches nothing, and
how words are placed where the next step fetches (00_scope.md R7, R8; log 1, log 2, log 5). -/

namespace Sys2Proof.Machine

/-- Whose step comes next: the BUS's, with the state after it, or the CORE's or the HOST's, with the
state it starts from. -/
inductive Turn where
  | busStep (t : State)
  | thread (s : State)
deriving DecidableEq, Repr

/-- The BUS steps as its list of draws says; where the list says `yield` or is at its end, the CORE or
the HOST steps (R8, R10). A list at its end begins again with the cycle, so that a BUS may go on for ever
(R11, log 1). -/
def State.turn (s : State) : Turn :=
  match s.bus with
  | [] => .thread { s with bus := s.busCycle }
  | .yield :: rest => .thread { s with bus := rest }
  | .deliver f :: rest => .busStep ({ s with bus := rest }.deliver f)
  | .sent k :: rest => .busStep ({ s with bus := rest }.sendSlot k)

/-- What the machine fetches, and the state without it: the HOST's next command word when no command
runs, the head of RQ at DRAIN's poll, the head of AQ at an acknowledge poll (R8, R78, R110). -/
def State.fetch (s : State) : Option (Words × State) :=
  match s.run with
  | none =>
    match s.host with
    | .command cmd data :: rest => some (.command cmd data, { s with host := rest })
    | _ => none
  | some .drain =>
    match s.rq with
    | f :: q => some (.frame f, { s with rq := q })
    | [] => none
  | some (.waitAck _) =>
    match s.aq with
    | f :: q => some (.frame f, { s with aq := q })
    | [] => none
  | some (.probeWait _ _) =>
    match s.aq with
    | f :: q => some (.frame f, { s with aq := q })
    | [] => none
  | some _ => none

/-- The step when nothing is fetched: the running command goes on from its primitive; with no command
running, the HOST returns from the `Call`; with no HOST action either, nothing happens (log 4). -/
def State.proceed (s : State) : State :=
  match s.run with
  | some p => s.resume p
  | none =>
    match s.host with
    | .ret _ :: rest => { s with host := rest }.returnFromCall
    | _ => s

/-- The state in which the very next step fetches `w` (log 5): a command word as the HOST's next
action, a request at the head of RQ with HANDLER at DRAIN's poll, an acknowledge at the head of AQ with
WAIT_ACK polling for the low 7 bits of its `control`. -/
def State.place (s : State) (w : Words) : State :=
  match w with
  | .command cmd data =>
    { s with bus := .yield :: s.bus, run := none, host := .command cmd data :: s.host }
  | .frame f =>
    if (unpack f.id).ack = 0 then { s with bus := .yield :: s.bus, run := some .drain, rq := f :: s.rq }
    else
      { s with
        bus := .yield :: s.bus
        run := some (.waitAck ((unpack f.id).control.setWidth 7))
        budget := some s.params.ackPollBudget
        aq := f :: s.aq }

end Sys2Proof.Machine
end

