-- ==== Sys2Proof/Machine/Step.lean ====
section
/-! DEFINITION. One step of one agent (00_scope.md R7, R8). -/

namespace Sys2Proof.Machine

/-- The step. -/
def step (s : State) : Host.Outcome State Fault Refusal :=
  match s.turn with
  | .busStep t => .next t
  | .thread t =>
    match t.fetch with
    | none => .next t.proceed
    | some (w, u) =>
      match decode w with
      | .ok i => exec i u
      | .error e => .fault (.undecodable e)

/-- The state whose very next step runs the instruction of these table bits (log 5). -/
def State.withFetchWord (s : State) (nbits w : Nat) : State := s.place (tableWords nbits w)

end Sys2Proof.Machine
end

