-- ==== Sys2Proof/Machine/Control.lean ====
section
/-! DEFINITION. The control point as 10_state.md R21 writes it, and the kinds of statement a running
command can stand at. -/

namespace Sys2Proof.Machine

/-- HANDLER is the running command. -/
def Point.inHandler : Point → Bool
  | .sendReq _ _ => false
  | .sendReqAgain _ => false
  | .waitAck _ => false
  | .waitAckResend _ _ => false
  | .sendAck _ => false
  | .probeSend _ _ _ => true
  | .probeWait _ _ => true
  | .probeResend _ _ _ => true
  | .drain => true
  | .reply _ => true

/-- HANDLER is the running command and is past its scanner step. -/
def Point.inDrain : Point → Bool
  | .sendReq _ _ => false
  | .sendReqAgain _ => false
  | .waitAck _ => false
  | .waitAckResend _ _ => false
  | .sendAck _ => false
  | .probeSend _ _ _ => false
  | .probeWait _ _ => false
  | .probeResend _ _ _ => false
  | .drain => true
  | .reply _ => true

/-- WAIT_ACK, or the probe's WAIT_ACK, is running. -/
def Point.inWait : Point → Bool
  | .sendReq _ _ => false
  | .sendReqAgain _ => false
  | .waitAck _ => true
  | .waitAckResend _ _ => true
  | .sendAck _ => false
  | .probeSend _ _ _ => false
  | .probeWait _ _ => true
  | .probeResend _ _ _ => true
  | .drain => false
  | .reply _ => false

/-- The candidate being probed and its incremented count. -/
def Point.probed : Point → Option (BitVec 7 × Nat)
  | .sendReq _ _ => none
  | .sendReqAgain _ => none
  | .waitAck _ => none
  | .waitAckResend _ _ => none
  | .sendAck _ => none
  | .probeSend c n _ => some (c, n)
  | .probeWait c n => some (c, n)
  | .probeResend c n _ => some (c, n)
  | .drain => none
  | .reply _ => none

/-- The frame that the running command holds at `Transmit` with. -/
def Point.frame? : Point → Option Frame
  | .sendReq _ f => some f
  | .sendReqAgain f => some f
  | .waitAck _ => none
  | .waitAckResend _ f => some f
  | .sendAck f => some f
  | .probeSend _ _ f => some f
  | .probeWait _ _ => none
  | .probeResend _ _ f => some f
  | .drain => none
  | .reply f => some f

/-- The commands that can stand at an interaction primitive between steps (10_state.md R21); every
other command ends in the step that begins it. -/
inductive Command where
  | sendReq
  | sendReqAgain
  | waitAck
  | sendAck
  | handler
deriving DecidableEq, Repr

/-- The interaction primitive a command has reached (00_scope.md R8). -/
inductive Stmt where
  | transmit (f : Frame)
  | pollReq
  | pollAck
  | call (ev : CallEvent)
deriving DecidableEq, Repr

/-- The control point as 10_state.md R21 writes it. -/
inductive ControlPoint where
  | idle
  | atStmt (cmd : Command) (stmt : Stmt) (depth : Nat)
deriving DecidableEq, Repr

/-- The command that a point belongs to. -/
def Point.command : Point → Command
  | .sendReq _ _ => .sendReq
  | .sendReqAgain _ => .sendReqAgain
  | .waitAck _ => .waitAck
  | .waitAckResend _ _ => .waitAck
  | .sendAck _ => .sendAck
  | .probeSend _ _ _ => .handler
  | .probeWait _ _ => .handler
  | .probeResend _ _ _ => .handler
  | .drain => .handler
  | .reply _ => .handler

/-- The primitive that a point stands at. -/
def Point.stmt : Point → Stmt
  | .sendReq _ f => .transmit f
  | .sendReqAgain f => .transmit f
  | .waitAck _ => .pollAck
  | .waitAckResend _ f => .transmit f
  | .sendAck f => .transmit f
  | .probeSend _ _ f => .transmit f
  | .probeWait _ _ => .pollAck
  | .probeResend _ _ f => .transmit f
  | .drain => .pollReq
  | .reply f => .transmit f

/-- The control point (R21): `IDLE`, or the running command's, or HANDLER's at its `Call`. -/
def State.controlPoint (s : State) : ControlPoint :=
  match s.run with
  | some p => .atStmt p.command p.stmt s.depth
  | none =>
    match s.outer with
    | some h => .atStmt .handler (.call h.event) 0
    | none => .idle

end Sys2Proof.Machine
end

