-- ==== Sys2Proof/Safety.lean ====
section
/-! DEFINITION. What claims about runs are stated in: the invariants of the state, reachability, and
the scanner's effect on the tables. -/

namespace Sys2Proof.Machine

/-! ### Runs -/

/-- `t` is one step after `s`. -/
def Next (s t : State) : Prop := step s = .next t

/-- `t` is reached from `s` by some number of steps. -/
inductive Reaches (s : State) : State → Prop where
  | refl : Reaches s s
  | tail {t u : State} : Reaches s t → Next t u → Reaches s u

/-- The instruction that the step from `s` runs, and the state it runs in: what is fetched at this
step decodes to it. None when the step runs no instruction. -/
def State.runs (s : State) : Option (Instr × State) :=
  match s.turn with
  | .busStep _ => none
  | .thread t =>
    match t.fetch with
    | none => none
    | some (w, u) =>
      match decode w with
      | .ok i => some (i, u)
      | .error _ => none

/-- The HOST action issues a command. -/
def HostAction.isCommand : HostAction → Bool
  | .command _ _ => true
  | .ret _ => false

/-- The run ends here (00_scope.md R11): the CORE is idle between commands and the HOST issues no further
command. -/
abbrev State.Ended (s : State) : Prop :=
  s.run = none ∧ s.outer = none ∧ ∀ a ∈ s.host, a.isCommand = false

/-- The run from `s` has no end. -/
def NeverEnds (s : State) : Prop := ∀ t, Reaches s t → ¬ t.Ended

/-- The run from `s` goes on for ever and has no end: a hang (00_scope.md R11). What the HOST issues is a
finite list, so one of its commands is then running for ever. -/
def Hangs (s : State) : Prop := ∀ t, Reaches s t → ¬ t.Ended ∧ ∃ u, Next t u

/-! ### Frames -/

/-- A frame the CORE may transmit (30_encoding.md R72): an extended data frame, `dlc` at most 8, and
zero beyond the payload. -/
abbrev IsMbnet (f : Frame) : Prop :=
  f.ide = true ∧ f.rtr = false ∧ f.dlc.toNat ≤ 8 ∧ f.data.zeroFrom f.dlc.toNat = true

/-- A frame that a filter accepted with this `ack` bit (40_codec.md R104), as received (00_scope.md
R14). -/
abbrev IsAccepted (ack : BitVec 1) (f : Frame) : Prop :=
  f.ide = true ∧ f.rtr = false ∧ (unpack f.id).ack = ack ∧ payloadOk f.dlc f.data = true

/-- The frames in transmit slots, by slot number. -/
def busyFrames : List Slot → List Frame
  | [] => []
  | .free :: rest => busyFrames rest
  | .busy f :: rest => f :: busyFrames rest

/-! ### Invariants -/

/-- The receive queues hold only accepted frames, at most RXQ_DEPTH each (40_codec.md R104 to R106). -/
abbrev QueueInv (s : State) : Prop :=
  1 ≤ s.params.rxqDepth ∧ s.rq.length ≤ s.params.rxqDepth ∧ s.aq.length ≤ s.params.rxqDepth ∧
  (∀ f ∈ s.rq, IsAccepted 0 f) ∧ (∀ f ∈ s.aq, IsAccepted 1 f)

/-- The entry is in its range (10_state.md R26). -/
def EntryOk (p : Params) : IndexEntry → Prop
  | .unresolved n => n < p.scanRetryLimit
  | .found i => i < p.slaveTableCapacity
  | .absent => True

/-- The discovery tables (10_state.md R26 to R28): their sizes, the ranges of their entries and of the
cursor, SLAVE_INDEX and SLAVE_RECORD one to one on Found, and, while a candidate is probed, that its
entry is the Unresolved one the probe started from. -/
structure TableInv (s : State) : Prop where
  valid : s.params.Valid
  indexLength : s.slaveIndex.length = s.params.rangeSize
  recordLength : s.slaveRecord.length = s.params.slaveTableCapacity
  entries : ∀ e ∈ s.slaveIndex, EntryOk s.params e
  oneSlot : ∀ j k i : Nat, s.slaveIndex[j]? = some (.found i) → s.slaveIndex[k]? = some (.found i) → j = k
  recorded : ∀ i : Nat, (∃ pong, s.slaveRecord[i]? = some ⟨true, pong⟩) ↔ ∃ j : Nat, s.slaveIndex[j]? = some (.found i)
  cursor : inCandidateRange s.params s.scanCursor = true
  probing : ∀ p c n, s.run = some p → p.probed = some (c, n) →
    inCandidateRange s.params c = true ∧ ∃ m, s.indexOf c = some (.unresolved m) ∧ n = m + 1

/-- The control point, LOCKED and BUDGET exist where the spec lets them (10_state.md R21, R29, R30;
60_exceptions.md R287): a command under a `Call` is never HANDLER, so depth is at most 1; LOCKED is
held only inside HANDLER's drain; BUDGET exists exactly while WAIT_ACK runs, between 1 and
ACK_POLL_BUDGET; the master of a pending reply is a master ID. -/
structure ControlInv (s : State) : Prop where
  budgetPositive : 1 ≤ s.params.ackPollBudget
  nested : ∀ p, s.run = some p → s.outer.isSome = true → p.inHandler = false
  lockScoped : ∀ m, s.locked = some m →
    s.outer.isSome = true ∨ ∃ p, s.run = some p ∧ p.inDrain = true
  budgetScoped : s.budget.isSome = true ↔ ∃ p, s.run = some p ∧ p.inWait = true
  budgetRange : ∀ b, s.budget = some b → 1 ≤ b ∧ b ≤ s.params.ackPollBudget
  replyMaster : ∀ h m, s.outer = some h → h.replyTo = some m → isMasterId m = true

/-- While the scanner's probe waits, the node is a configured master and PENDING is the probe's own
request, so the resend inside its WAIT_ACK cannot fail (43_discovery.md R193). -/
structure ProbeInv (s : State) : Prop where
  role : ∀ p c n, s.run = some p → p.probed = some (c, n) → s.isMaster = true
  pending : ∀ p c n, s.run = some p → p.probed = some (c, n) → p.inWait = true →
    s.pending.valid = true ∧ s.pending.slaveId = c
  request : ∀ c n f, s.run = some (.probeSend c n f) →
    f = s.requestFrame c tosPing 0 0 Message.zero

/-- Every frame the CORE hands or will hand to `Transmit` is an MBNet frame (30_encoding.md R72), and
PENDING is a request to its slave (10_state.md R25, 42_master_request.md R150). -/
structure FrameInv (s : State) : Prop where
  handed : ∀ f ∈ s.txRecord, IsMbnet f
  held : ∀ p f, s.run = some p → p.frame? = some f → IsMbnet f
  pendingDlc : s.pending.dlc.toNat ≤ 8
  pendingData : s.pending.msg.zeroFrom s.pending.dlc.toNat = true
  pendingId : s.pending.valid = true →
    (unpack s.pending.fid).node = s.pending.slaveId ∧ (unpack s.pending.fid).ack = 0
  toSend : ∀ slave f, s.run = some (.sendReq slave f) →
    (unpack f.id).node = slave ∧ (unpack f.id).ack = 0
  toProbe : ∀ c n f, s.run = some (.probeSend c n f) →
    (unpack f.id).node = c ∧ (unpack f.id).ack = 0

/-- Every frame handed to `Transmit` is in exactly one place, a busy slot or the wire (40_codec.md
R108, R109). -/
def WireInv (s : State) : Prop :=
  s.tx.length = s.params.txSlots ∧ (s.wire ++ busyFrames s.tx).Perm s.txRecord

/-! ### The scanner as a function -/

/-- What a whole SCAN_STEP of a configured master leaves in the tables and the cursor when its probe,
if it makes one, ends with this answer: the pong, or none for a probe that fails (43_discovery.md R192,
R194, R195). -/
def State.scanRound (s : State) (answer : Option Message) : State :=
  match s.scanProbe with
  | none => s.advanceCursor
  | some (c, n) =>
    match answer with
    | some pong => s.advanceCursor.allocate c pong
    | none => s.advanceCursor.probeFailed c n

/-- SCAN_STEPs one after another. -/
def State.scanRounds (s : State) : List (Option Message) → State
  | [] => s
  | a :: rest => (s.scanRound a).scanRounds rest

/-- The ID is a candidate: in the range and not the node's own (43_discovery.md R190). -/
def State.isCandidate (s : State) (c : BitVec 7) : Bool :=
  inCandidateRange s.params c && c != s.nodeId

/-- `K`, the number of candidates (43_discovery.md R197). -/
def State.candidateCount (s : State) : Nat :=
  if inCandidateRange s.params s.nodeId then s.params.rangeSize - 1 else s.params.rangeSize

/-- The candidate is Found or Absent. -/
def State.isResolved (s : State) (c : BitVec 7) : Bool :=
  match s.indexOf c with
  | some (.found _) => true
  | some .absent => true
  | _ => false

/-- Slot `i` is the first free one of the table (43_discovery.md R194). -/
abbrev FirstFree (records : List SlaveRecord) (i : Nat) : Prop :=
  records[i]?.map SlaveRecord.valid = some false ∧
    ∀ j < i, records[j]?.map SlaveRecord.valid = some true

/-- No slot of the table is free. -/
abbrev TableFull (records : List SlaveRecord) : Prop := ∀ r ∈ records, r.valid = true

/-- One transition of a candidate's SLAVE_INDEX entry, in a table with these records
(43_discovery.md R190). -/
inductive EntryMove (p : Params) (records : List SlaveRecord) : IndexEntry → IndexEntry → Prop where
  | count (n : Nat) : n + 1 < p.scanRetryLimit → EntryMove p records (.unresolved n) (.unresolved (n + 1))
  | exhausted (n : Nat) : n + 1 = p.scanRetryLimit → EntryMove p records (.unresolved n) .absent
  | full (n : Nat) : TableFull records → EntryMove p records (.unresolved n) .absent
  | find (n i : Nat) : FirstFree records i → EntryMove p records (.unresolved n) (.found i)

/-! ### The words of the statements

What the rules say happens, written out apart from the operations that the meanings use. -/

/-- The bytes of a message by index. -/
def messageBytes (m : Message) : List Byte := [m.b0, m.b1, m.b2, m.b3, m.b4, m.b5, m.b6, m.b7]

/-- The lowest-numbered free slot is `k` (40_codec.md R108). -/
abbrev LowestFree (tx : List Slot) (k : Nat) : Prop :=
  tx[k]? = some .free ∧ ∀ j < k, tx[j]? ≠ some .free

/-- No slot is free. -/
abbrev NoneFree (tx : List Slot) : Prop := ∀ x ∈ tx, x ≠ Slot.free

/-- The command ends with result `r`: the result registers hold it, the HOST has it, and no command
runs. -/
def State.returned (s : State) (r : Result) : State :=
  { s with res := r, run := none, record := s.record ++ [.result r] }

/-- Frame `f` is handed over in slot `k`. -/
def State.handed (s : State) (k : Nat) (f : Frame) : State :=
  { s with tx := s.tx.set k (.busy f), record := s.record ++ [.transmit f] }

/-- A bare status as a result. -/
def statusResult (st : Status) : Result := ⟨st, 0, 0, 0, Message.zero⟩

/-- The frame of a request from this node (30_encoding.md R77): the first `dlc` bytes of the message. -/
def requestOf (nodeId slave : BitVec 7) (tos : BitVec 2) (control : BitVec 16) (dlc : BitVec 4)
    (msg : Message) : Frame :=
  ⟨true, false, pack ⟨control, tos, nodeId.extractLsb' 4 3, slave, 0⟩, dlc, msg.keep dlc.toNat⟩

/-- The frame of an acknowledge from this node (30_encoding.md R77). -/
def acknowledgeOf (nodeId master : BitVec 7) (tos : BitVec 2) (dlc : BitVec 4) (msg : Message) : Frame :=
  ⟨true, false, pack ⟨nodeId.setWidth 16, tos, 0, master, 1⟩, dlc, msg.keep dlc.toNat⟩

/-- HANDLER goes on to `REPLY(tos)` to the master of slot `ms` (44_dispatcher.md R244): it stands at the
Transmit of the acknowledge, or, on an unconfigured node, goes on to the drain with nothing sent. -/
def State.replying (s : State) (ms : BitVec 3) (tos : BitVec 2) : State :=
  { s with run := some (if s.configured then
      .reply (acknowledgeOf s.nodeId (ms.setWidth 7 <<< 4) tos 0 Message.zero) else .drain) }

/-- HANDLER holds at `Call(ev)`: the HOST has the turn. -/
def State.calling (s : State) (ev : CallEvent) (replyTo : Option (BitVec 7)) : State :=
  { s with run := none, outer := some ⟨ev, replyTo⟩, record := s.record ++ [.call ev] }

/-- The `ms` of a request row: the slot of the master that sent it. -/
def requestMs : Instr → Option (BitVec 3)
  | .etosLock q => some q.ms
  | .etosUnlock q => some q.ms
  | .etosReserved02 q => some q.ms
  | .etosReserved03 q => some q.ms
  | .etosInitHook q => some q.ms
  | .etosUnimplemented05 q => some q.ms
  | .etosNotifyEvent q => some q.ms
  | .etosNotifySysex q => some q.ms
  | .etosDinToggle q => some q.ms
  | .etosEncChange q => some q.ms
  | .etosAinChange q => some q.ms
  | .etosReserved0B q => some q.ms
  | .etosReserved0C q => some q.ms
  | .etosReserved0D q => some q.ms
  | .etosReserved0E q => some q.ms
  | .etosClone q => some q.ms
  | .etosApp1 q => some q.ms
  | .etosApp2 q => some q.ms
  | .etosApp3 q => some q.ms
  | .etosApp4 q => some q.ms
  | .ramRead q => some q.ms
  | .ramWrite q => some q.ms
  | .ping q => some q.ms
  | _ => none

/-- DRAIN may dispatch a request from master slot `ms`: it stands at its poll, and the node is unlocked
or locked by that master (44_dispatcher.md R221). -/
abbrev Admits (s : State) (ms : BitVec 3) : Prop :=
  s.run = some .drain ∧ (s.locked = none ∨ s.locked = some ms)

/-- The acknowledge is from this slave (42_master_request.md R153). -/
abbrev IsFrom (slave : BitVec 7) (control : BitVec 16) : Prop := control = slave.setWidth 16

/-- The step is the CORE's or the HOST's: the BUS has nothing to do before it; `rest` is what it has to
do after it. -/
abbrev Quiet (s : State) (rest : List BusAction) : Prop :=
  (s.bus = [] ∧ rest = s.busCycle) ∨ s.bus = .yield :: rest

/-- Commands with this opcode decode to `i` of the command word and the data operand (30_encoding.md R79
to R81). -/
def Encodes (op : BitVec 4) (i : BitVec 64 → BitVec 64 → Instr) : Prop :=
  ∀ cmd data : BitVec 64, cmd.extractLsb' 0 4 = op → decode (.command cmd data) = .ok (i cmd data)

/-- A command at `p` stands at `Transmit(f)` (40_codec.md R108): it holds while no slot is free, and with
a free slot hands `f` over and goes on as `k` says. -/
def TransmitThen (p : Point) (f : Frame) (k : State → State) : Prop :=
  ∀ (u : State) (rest : List BusAction), Quiet u rest → u.run = some p →
    (NoneFree u.tx → step u = .next { u with bus := rest }) ∧
    ∀ n, LowestFree u.tx n → step u = .next (k ({ u with bus := rest }.handed n f))

/-- The BUS never takes a frame to the wire. -/
def NeverSends (s : State) : Prop := ∀ k : Nat, .sent k ∉ s.bus ∧ .sent k ∉ s.busCycle

/-- The frame is an Unlock from the master of slot `m` (44_dispatcher.md R226). -/
abbrev IsUnlock (m : BitVec 3) (f : Frame) : Prop :=
  f.id &&& 0x001FF801 = 0x00002000 ∧ f.id.extractLsb' 8 3 = m

/-- No Unlock from the master of slot `m` is queued, and the BUS never delivers one. -/
def NeverUnlocks (m : BitVec 3) (s : State) : Prop :=
  (∀ f ∈ s.rq, ¬ IsUnlock m f) ∧
    ∀ f, IsUnlock m f → .deliver f ∉ s.bus ∧ .deliver f ∉ s.busCycle

/-- The frame is an acknowledge RETRY from this slave (30_encoding.md R75; 42_master_request.md R153). -/
abbrev IsRetry (slave : BitVec 7) (f : Frame) : Prop :=
  IsAccepted 1 f ∧ IsFrom slave (unpack f.id).control ∧ (unpack f.id).tos = 2

/-- The frame that a resend of PENDING hands over (42_master_request.md R151). -/
def State.pendingFrame (s : State) : Frame :=
  ⟨true, false, s.pending.fid, s.pending.dlc, s.pending.msg.keep s.pending.dlc.toNat⟩

/-- The acknowledge that `REPLY(tos)` to the master of slot `ms` stands at goes out, and DRAIN goes on
(44_dispatcher.md R221, R244). -/
def ReplyLeaves (ms : BitVec 3) (tos : BitVec 2) : Prop :=
  ∀ nodeId : BitVec 7, TransmitThen
    (.reply (acknowledgeOf nodeId (ms.setWidth 7 <<< 4) tos 0 Message.zero))
    (acknowledgeOf nodeId (ms.setWidth 7 <<< 4) tos 0 Message.zero)
    fun v => { v with run := some .drain }

/-- When the HOST returns, with any status, from the `Call(ev)` that HANDLER holds at, HANDLER sends
`REPLY(OK)` to the master of slot `ms` (44_dispatcher.md R229, R231; 60_exceptions.md R287). -/
def RepliesOkAfter (ev : CallEvent) (ms : BitVec 3) : Prop :=
  ∀ (u : State) (rest : List BusAction) (v : Int) (more : List HostAction), Quiet u rest →
    u.run = none → u.outer = some ⟨ev, some (ms.setWidth 7 <<< 4)⟩ → u.host = .ret v :: more →
    step u = .next ({ u with bus := rest, host := more, outer := none }.replying ms 0)

/-- When the HOST returns, with any status, from the `Call(ev)` that HANDLER holds at, HANDLER goes on to
its next poll and sends nothing (44_dispatcher.md R245; 60_exceptions.md R287). -/
def SendsNothingAfter (ev : CallEvent) : Prop :=
  ∀ (u : State) (rest : List BusAction) (v : Int) (more : List HostAction), Quiet u rest →
    u.run = none → u.outer = some ⟨ev, none⟩ → u.host = .ret v :: more →
    step u = .next { u with bus := rest, host := more, outer := none, run := some .drain }

/-- The master an event names. -/
def eventMaster : CallEvent → BitVec 7
  | .callback master _ _ _ _ => master
  | .hook _ master _ _ => master

/-- The discovery tables and the cursor are the same. -/
def SameTables (s t : State) : Prop :=
  s.slaveIndex = t.slaveIndex ∧ s.slaveRecord = t.slaveRecord ∧ s.scanCursor = t.scanCursor

/-- A sequence of acknowledges on which a WAIT_ACK for `slave` with `b` polls left ends in `Success`
with `result` after `n` retries: fewer than the budget's acknowledges of others between two that are
from the slave (42_master_request.md R154, R156). `full` is ACK_POLL_BUDGET. -/
inductive AckScript (full : Nat) (slave : BitVec 7) : Nat → List Frame → Nat → Result → Prop where
  | last (b : Nat) (f : Frame) : IsAccepted 1 f → IsFrom slave (unpack f.id).control →
      (unpack f.id).tos ≠ 2 → AckScript full slave b [f] 0 ⟨.success, 0, f.dlc, (unpack f.id).tos, f.data⟩
  | retry (b n : Nat) (f : Frame) (rest : List Frame) (r : Result) : IsAccepted 1 f →
      IsFrom slave (unpack f.id).control → (unpack f.id).tos = 2 → AckScript full slave full rest n r →
      AckScript full slave b (f :: rest) (n + 1) r
  | other (b n : Nat) (f : Frame) (rest : List Frame) (r : Result) : IsAccepted 1 f →
      ¬ IsFrom slave (unpack f.id).control → 1 < b → AckScript full slave (b - 1) rest n r →
      AckScript full slave b (f :: rest) n r

end Sys2Proof.Machine
end

