-- ==== Sys2Proof/Certificates/Slice0/Obligations.lean ====
section
/-! DEFINITION. The statements for the provers. Each docstring names the rules of spec/ that the
statement formalises. -/

open Sys2Proof Sys2Proof.Machine

/-! ### Codec and encodings -/

/-- UNPACK and its corner cases (40_codec.md R102). -/
def Obligations.UnpackInvertsPack : Prop :=
  (∀ id : BitVec 29, unpack id = ⟨id.extractLsb' 13 16, id.extractLsb' 11 2, id.extractLsb' 8 3,
    id.extractLsb' 1 7, id.extractLsb' 0 1⟩) ∧
  (∀ u : IdFields, unpack (pack u) = u) ∧
  (∀ id : BitVec 29, pack (unpack id) = id) ∧
  unpack 0x0ABCDEF1 = ⟨0x55E6, 3, 6, 0x78, 1⟩

/-- PACK: its formula, its value as a sum of its fields at their places, and its corner cases
(40_codec.md R101; the places: 30_encoding.md R70). -/
def Obligations.PackPlacesFields : Prop :=
  (∀ u : IdFields, pack u = (u.control.setWidth 29 <<< 13) ||| (u.tos.setWidth 29 <<< 11) |||
    (u.ms.setWidth 29 <<< 8) ||| (u.node.setWidth 29 <<< 1) ||| u.ack.setWidth 29) ∧
  (∀ u : IdFields, (pack u).toNat =
    u.control.toNat * 8192 + u.tos.toNat * 2048 + u.ms.toNat * 256 + u.node.toNat * 2 + u.ack.toNat) ∧
  pack ⟨0xFFFF, 3, 7, 0x7F, 1⟩ = 0x1FFFFFFF ∧ pack ⟨0, 0, 0, 0, 0⟩ = 0 ∧
  pack ⟨0x0000, 3, 0, 0x05, 0⟩ = 0x0000180A

/-- Decoding an encoded well-formed instruction gives it back, for all 43 instructions and every operand
that an encoding admits (30_encoding.md R70, R76, R79 to R81). -/
def Obligations.DecodeEncodeRoundTrip : Prop :=
  ∀ i : Instr, i.WellFormed → decode (encode i) = .ok i

/-- A frame decodes exactly when it is an extended data frame, and encoding what it decodes to gives the
frame back: no bit of the identifier, of the length code or of the data is dropped. It is well-formed
exactly when the bytes that did not travel are zero (30_encoding.md R71, R72, R78; 00_scope.md R14). -/
def Obligations.FrameDecodeLosesNothing : Prop :=
  (∀ f : Frame, (∃ i, decode (.frame f) = .ok i) ↔ f.ide = true ∧ f.rtr = false) ∧
  ∀ (f : Frame) (i : Instr), decode (.frame f) = .ok i →
    encode i = .frame f ∧ (i.WellFormed ↔ f.data.zeroFrom (min f.dlc.toNat 8) = true)

/-- Which bits of a command the decoder reads (30_encoding.md R79 to R81, R84): every command decodes to
a well-formed instruction; CMD's reserved bits are ignored; CMD[15] is read by NODEID_SET alone; DATA by
SEND_REQ and SEND_ACK alone, byte k from DATA[8k+7:8k]. -/
def Obligations.CommandBitsRead : Prop :=
  (∀ cmd data : BitVec 64, ∃ i, decode (.command cmd data) = .ok i ∧ i.WellFormed) ∧
  (∀ cmd cmd' data : BitVec 64, cmd &&& 0x0000FFFF0003FFFF = cmd' &&& 0x0000FFFF0003FFFF →
    decode (.command cmd data) = decode (.command cmd' data)) ∧
  (∀ cmd cmd' data : BitVec 64, cmd.extractLsb' 0 4 ≠ 1 →
    cmd &&& 0x0000FFFF00037FFF = cmd' &&& 0x0000FFFF00037FFF →
    decode (.command cmd data) = decode (.command cmd' data)) ∧
  (∀ cmd data data' : BitVec 64, cmd.extractLsb' 0 4 ≠ 3 → cmd.extractLsb' 0 4 ≠ 7 →
    decode (.command cmd data) = decode (.command cmd data')) ∧
  (∀ (cmd data : BitVec 64) (slave : BitVec 7) (tos : BitVec 2) (control : BitVec 16) (dlc : BitVec 4)
      (msg : Message), decode (.command cmd data) = .ok (.sendReq slave tos control dlc msg) ↔
    cmd.extractLsb' 0 4 = 3 ∧ slave = cmd.extractLsb' 8 7 ∧ tos = cmd.extractLsb' 16 2 ∧
    control = cmd.extractLsb' 32 16 ∧ dlc = cmd.extractLsb' 4 4 ∧
    ∀ k < 8, (messageBytes msg)[k]? = some (data.extractLsb' (8 * k) 8)) ∧
  (∀ (cmd data : BitVec 64) (master : BitVec 7) (tos : BitVec 2) (dlc : BitVec 4) (msg : Message),
    decode (.command cmd data) = .ok (.sendAck master tos dlc msg) ↔
    cmd.extractLsb' 0 4 = 7 ∧ master = cmd.extractLsb' 8 7 ∧ tos = cmd.extractLsb' 16 2 ∧
    dlc = cmd.extractLsb' 4 4 ∧ ∀ k < 8, (messageBytes msg)[k]? = some (data.extractLsb' (8 * k) 8))

/-- What is decoded lies in its row of the opcode table and in no other row (30_encoding.md R78, R81). -/
def Obligations.DecoderFollowsTable : Prop :=
  ∀ (w : Words) (i j : Instr), decode w = .ok i →
    i.row.holds w = true ∧ (j.row.holds w = true → j.row = i.row)

/-- Words written out from the encodings decode to the instructions they stand for (95_test_vectors.md
V-N4, V-M5, V-A6, V-D1, V-E18, V-E20, V-M13). -/
def Obligations.SampleWordsDecode : Prop :=
  decode (.command 0x8001 0) = .ok (.nodeidSet 0x80) ∧
  decode (.command 0x0000123400010523 0xBBAA) =
    .ok (.sendReq 0x05 1 0x1234 2 ⟨0xAA, 0xBB, 0, 0, 0, 0, 0, 0⟩) ∧
  decode (.command 0x1007 0) = .ok (.sendAck 0x10 0 0 Message.zero) ∧
  decode (.command 0x9 0) = .ok .handler ∧
  decode (.frame ⟨true, false, 0x0000020A, 0, Message.zero⟩) = .ok (.etosLock ⟨0, 2, 5, 0, Message.zero⟩) ∧
  decode (.frame ⟨true, false, 0x0002020A, 4, Message.zero⟩) =
    .ok (.etosApp4 ⟨0x10, 2, 5, 4, Message.zero⟩) ∧
  decode (.frame ⟨true, false, 0x00000D0A, 0, Message.zero⟩) = .ok (.ramRead ⟨0, 5, 5, 0, Message.zero⟩) ∧
  decode (.frame ⟨true, false, 0x0000B0A1, 0, Message.zero⟩) = .ok (.ackRetry ⟨5, 0, 0x50, 0, Message.zero⟩)

/-- BUILD_FRAME (40_codec.md R107) and RECEIVED_PAYLOAD (R111), byte by byte: the bytes that travel, then
zeros. -/
def Obligations.PayloadBytes : Prop :=
  (∀ (id : BitVec 29) (msg : Message) (dlc : BitVec 4), dlc.toNat ≤ 8 →
    (buildFrame id msg dlc).ide = true ∧ (buildFrame id msg dlc).rtr = false ∧
    (buildFrame id msg dlc).id = id ∧ (buildFrame id msg dlc).dlc = dlc ∧
    messageBytes (buildFrame id msg dlc).data =
      (messageBytes msg).take dlc.toNat ++ List.replicate (8 - dlc.toNat) 0) ∧
  (∀ (n : Nat) (m : Message),
    messageBytes (m.keep n) = (messageBytes m).take n ++ List.replicate (8 - n) 0) ∧
  (∀ (dlc : BitVec 4) (m : Message), messageBytes (receivedPayload dlc m) =
    (messageBytes m).take (min dlc.toNat 8) ++ List.replicate (8 - min dlc.toNat 8) 0)

/-- The result word (30_encoding.md R82), the status codes (R83), and DATA's byte order (R80). -/
def Obligations.ResultWordLayout : Prop :=
  (∀ r : Result, r.word.toNat =
    r.tos.toNat * 65536 + r.id.toNat * 256 + r.dlc.toNat * 16 + r.status.code.toNat) ∧
  [Status.success, .pending, .retryRequested, .timeout, .notConfigured, .notMaster, .sequenceError,
    .invalidTarget, .invalidId, .outOfRange, .notFound, .invalidLength, .illegalCommand].map
      (fun st => st.code.toNat) = [0, 1, 2, 3, 4, 5, 6, 7, 8, 9, 10, 11, 12] ∧
  (∀ d : BitVec 64, (Message.ofData d).toData = d) ∧ (∀ m : Message, Message.ofData m.toData = m) ∧
  (∀ (m : Message) (k : Nat), k < 8 →
    (messageBytes m)[k]? = some (m.toData.extractLsb' (8 * k) 8))

/-! ### The acceptance filters, the receive queues and the wire -/

/-- FILTER_MATCH, and property P1: what it does after NODEID_SET (40_codec.md R104). -/
def Obligations.FilterRoutes : Prop :=
  (∀ (s : State) (f : Frame),
    (s.filterMatch f = .toRq ↔ s.configured = true ∧ f.ide = true ∧ f.rtr = false ∧
      f.id.extractLsb' 1 7 = s.nodeId ∧ f.id.getLsbD 0 = false) ∧
    (s.filterMatch f = .toAq ↔ s.configured = true ∧ f.ide = true ∧ f.rtr = false ∧
      f.id.extractLsb' 1 7 = s.nodeId ∧ f.id.getLsbD 0 = true) ∧
    (s.configured = false → s.filterMatch f = .drop)) ∧
  ∀ (s : State) (id : BitVec 8), s.run = none → id.toNat < 128 →
    ∃ t, exec (.nodeidSet id) s = .next t ∧ ∀ f : Frame,
      (t.filterMatch f = .toRq ↔ f.ide = true ∧ f.rtr = false ∧
        f.id.extractLsb' 1 7 = id.setWidth 7 ∧ f.id.getLsbD 0 = false) ∧
      (t.filterMatch f = .toAq ↔ f.ide = true ∧ f.rtr = false ∧
        f.id.extractLsb' 1 7 = id.setWidth 7 ∧ f.id.getLsbD 0 = true)

/-- The BUS delivers a frame at any time, whatever the CORE is doing: into the queue that the filter
names, at its end, with the overrun rule when the queue is full; nothing else changes (40_codec.md R105,
R106; 20_memory.md R56; 00_scope.md R10, R14). -/
def Obligations.BusDelivers : Prop :=
  ∀ (s : State) (f : Frame) (rest : List BusAction), s.bus = .deliver f :: rest →
    (s.filterMatch f = .drop → step s = .next { s with bus := rest }) ∧
    (s.filterMatch f = .toRq →
      (s.rq.length < s.params.rxqDepth → step s = .next { s with
        bus := rest, rq := s.rq ++ [{ f with data := f.data.keep (min f.dlc.toNat 8) }] }) ∧
      (s.params.rxqDepth ≤ s.rq.length → s.params.rxqOverrun = .dropNew →
        step s = .next { s with bus := rest }) ∧
      (s.params.rxqDepth ≤ s.rq.length → s.params.rxqOverrun = .dropOldest → step s = .next { s with
        bus := rest, rq := s.rq.drop 1 ++ [{ f with data := f.data.keep (min f.dlc.toNat 8) }] })) ∧
    (s.filterMatch f = .toAq →
      (s.aq.length < s.params.rxqDepth → step s = .next { s with
        bus := rest, aq := s.aq ++ [{ f with data := f.data.keep (min f.dlc.toNat 8) }] }) ∧
      (s.params.rxqDepth ≤ s.aq.length → s.params.rxqOverrun = .dropNew →
        step s = .next { s with bus := rest }) ∧
      (s.params.rxqDepth ≤ s.aq.length → s.params.rxqOverrun = .dropOldest → step s = .next { s with
        bus := rest, aq := s.aq.drop 1 ++ [{ f with data := f.data.keep (min f.dlc.toNat 8) }] }))

/-- The BUS takes the frame of any busy slot to the wire at any time (40_codec.md R109). The model's
choice of log 4: drawing a slot that is not busy does nothing. -/
def Obligations.BusSends : Prop :=
  ∀ (s : State) (k : Nat) (rest : List BusAction), s.bus = .sent k :: rest →
    (∀ f, s.tx[k]? = some (.busy f) → step s = .next { s with
      bus := rest, tx := s.tx.set k .free, wire := s.wire ++ [f] }) ∧
    ((∀ f, s.tx[k]? ≠ some (.busy f)) → step s = .next { s with bus := rest })

/-- With one transmit slot, frames leave in the order the CORE handed them over: the wire and then the
slot hold exactly the transmit record. So it is after power-on, and every step keeps it
(20_memory.md R58). The wire, empty at power-on, is the model's field (log 7). -/
def Obligations.SingleSlotOrder : Prop :=
  (∀ p : Params, p.txSlots = 1 → (State.powerOn p).tx.length = 1 ∧
    (State.powerOn p).wire ++ busyFrames (State.powerOn p).tx = (State.powerOn p).txRecord) ∧
  ∀ s t : State, s.tx.length = 1 → s.wire ++ busyFrames s.tx = s.txRecord → Next s t →
    t.tx.length = 1 ∧ t.wire ++ busyFrames t.tx = t.txRecord

/-! ### The step -/

/-- A step runs the decoded instruction (00_scope.md R8; 40_codec.md R110): the HOST's next command when no
command runs; the request at the head of RQ at DRAIN's poll; the acknowledge at the head of AQ at the poll
of WAIT_ACK and of the probe. What the step adds around the instruction: the word is taken from where it
was fetched, and the BUS's `yield` is used up. -/
def Obligations.StepRunsDecoded : Prop :=
  ∀ (s : State) (rest : List BusAction), Quiet s rest →
    (∀ (cmd data : BitVec 64) (more : List HostAction) (i : Instr), s.run = none →
      s.host = .command cmd data :: more → decode (.command cmd data) = .ok i →
      step s = exec i { s with bus := rest, host := more }) ∧
    (∀ (f : Frame) (q : List Frame) (i : Instr), s.run = some .drain → s.rq = f :: q →
      decode (.frame f) = .ok i → step s = exec i { s with bus := rest, rq := q }) ∧
    (∀ (f : Frame) (q : List Frame) (i : Instr) (slave : BitVec 7), s.run = some (.waitAck slave) →
      s.aq = f :: q → decode (.frame f) = .ok i → step s = exec i { s with bus := rest, aq := q }) ∧
    (∀ (f : Frame) (q : List Frame) (i : Instr) (c : BitVec 7) (n : Nat), s.run = some (.probeWait c n) →
      s.aq = f :: q → decode (.frame f) = .ok i → step s = exec i { s with bus := rest, aq := q })

/-- The instruction of a table word, placed where the machine fetches, is the one the very next step runs
(the model's placement, log 5). -/
def Obligations.PlacedWordRuns : Prop :=
  ∀ (s : State) (nbits w : Nat) (i : Instr), decodeTableWord nbits w = some i →
    ∃ u : State, step (s.withFetchWord nbits w) = exec i u ∧
      ((nbits ≤ 8 ∨ 32 < nbits) → u = { s with run := none }) ∧
      (8 < nbits → nbits ≤ 32 → (BitVec.ofNat 29 w).getLsbD 0 = false →
        u = { s with run := some .drain }) ∧
      (8 < nbits → nbits ≤ 32 → (BitVec.ofNat 29 w).getLsbD 0 = true →
        u = { s with
          run := some (.waitAck ((BitVec.ofNat 29 w).extractLsb' 13 7))
          budget := some s.params.ackPollBudget })

/-! ### Node identity -/

/-- INIT (41_node_identity.md R130, with the reset of 70_reset_and_hazards.md R311): the CORE's own state
at its reset values, the BUS's queues and slots and the record kept, every later frame dropped. During a
`Call` it is refused. -/
def Obligations.InitResets : Prop :=
  Encodes 0x0 (fun _ _ => .init) ∧ ∀ s : State, s.run = none →
    (s.outer = none → ∃ t, exec .init s = .next t ∧ t = { s with
        configured := false
        nodeId := 0
        pending := ⟨false, 0, 0, Message.zero, 0⟩
        slaveIndex :=
          List.replicate (s.params.scanLast.toNat - s.params.scanFirst.toNat + 1) (.unresolved 0)
        slaveRecord := List.replicate s.params.slaveTableCapacity ⟨false, Message.zero⟩
        scanCursor := s.params.scanFirst }.returned (statusResult .success) ∧
      ∀ f, t.filterMatch f = .drop) ∧
    (∀ h, s.outer = some h → exec .init s = .refused .nestedInit)

/-- NODEID_SET (41_node_identity.md R131). -/
def Obligations.NodeidSetResult : Prop :=
  Encodes 0x1 (fun cmd _ => .nodeidSet (cmd.extractLsb' 8 8)) ∧ ∀ (s : State) (id : BitVec 8), s.run = none →
    (128 ≤ id.toNat → exec (.nodeidSet id) s = .next (s.returned (statusResult .invalidId))) ∧
    (id.toNat < 128 → ∃ t, exec (.nodeidSet id) s = .next t ∧
      t = { s with nodeId := id.setWidth 7, configured := true }.returned (statusResult .success) ∧
      (t.role = .master ↔ id.toNat % 16 = 0) ∧ (t.role = .slave ↔ id.toNat % 16 ≠ 0))

/-- NODEID_GET (41_node_identity.md R132). -/
def Obligations.NodeidGetResult : Prop :=
  Encodes 0x2 (fun _ _ => .nodeidGet) ∧ ∀ s : State, s.run = none →
    (s.configured = false →
      exec .nodeidGet s = .next (s.returned ⟨.notConfigured, 0xFF, 0, 0, Message.zero⟩)) ∧
    (s.configured = true →
      exec .nodeidGet s = .next (s.returned ⟨.success, s.nodeId.setWidth 8, 0, 0, Message.zero⟩))

/-! ### The master request engine -/

/-- SEND_REQ (42_master_request.md R150): its checks in order, its frame in the lowest-numbered free slot,
PENDING written after it; with no free slot the command holds at its Transmit until one is free. That the
Transmit is in the step that issues the command is the model's granularity (log 2), the hold log 4. -/
def Obligations.SendReqResult : Prop :=
  Encodes 0x3 (fun cmd data => .sendReq (cmd.extractLsb' 8 7) (cmd.extractLsb' 16 2)
    (cmd.extractLsb' 32 16) (cmd.extractLsb' 4 4) (Message.ofData data)) ∧
  ∀ (s : State) (slave : BitVec 7) (tos : BitVec 2) (control : BitVec 16) (dlc : BitVec 4) (msg : Message),
    s.run = none →
    (s.configured = false → exec (.sendReq slave tos control dlc msg) s =
      .next (s.returned (statusResult .notConfigured))) ∧
    (s.configured = true → s.nodeId.extractLsb' 0 4 ≠ 0 → exec (.sendReq slave tos control dlc msg) s =
      .next (s.returned (statusResult .notMaster))) ∧
    (s.configured = true → s.nodeId.extractLsb' 0 4 = 0 → 8 < dlc.toNat →
      exec (.sendReq slave tos control dlc msg) s = .next (s.returned (statusResult .invalidLength))) ∧
    (s.configured = true → s.nodeId.extractLsb' 0 4 = 0 → dlc.toNat ≤ 8 →
      (∀ k, LowestFree s.tx k → exec (.sendReq slave tos control dlc msg) s =
        .next ({ s.handed k (requestOf s.nodeId slave tos control dlc msg) with
          pending := ⟨true, slave, pack ⟨control, tos, s.nodeId.extractLsb' 4 3, slave, 0⟩,
            msg.keep dlc.toNat, dlc⟩ }.returned (statusResult .success))) ∧
      (NoneFree s.tx → exec (.sendReq slave tos control dlc msg) s =
        .next { s with run := some (.sendReq slave (requestOf s.nodeId slave tos control dlc msg)) }) ∧
      TransmitThen (.sendReq slave (requestOf s.nodeId slave tos control dlc msg))
        (requestOf s.nodeId slave tos control dlc msg) fun v => { v with
          pending := ⟨true, slave, pack ⟨control, tos, s.nodeId.extractLsb' 4 3, slave, 0⟩,
            msg.keep dlc.toNat, dlc⟩ }.returned (statusResult .success))

/-- SEND_REQ_AGAIN (42_master_request.md R151): its checks in order, the frame of PENDING, PENDING
unchanged; with no free slot it holds until one is free. That the Transmit is in the step that issues the
command is the model's granularity (log 2), the hold log 4. -/
def Obligations.SendReqAgainResult : Prop :=
  Encodes 0x4 (fun cmd _ => .sendReqAgain (cmd.extractLsb' 8 7)) ∧
  ∀ (s : State) (slave : BitVec 7), s.run = none →
    (s.configured = false →
      exec (.sendReqAgain slave) s = .next (s.returned (statusResult .notConfigured))) ∧
    (s.configured = true → s.nodeId.extractLsb' 0 4 ≠ 0 →
      exec (.sendReqAgain slave) s = .next (s.returned (statusResult .notMaster))) ∧
    (s.configured = true → s.nodeId.extractLsb' 0 4 = 0 →
      s.pending.valid = false ∨ s.pending.slaveId ≠ slave →
      exec (.sendReqAgain slave) s = .next (s.returned (statusResult .sequenceError))) ∧
    (s.configured = true → s.nodeId.extractLsb' 0 4 = 0 → s.pending.valid = true →
      s.pending.slaveId = slave →
      (∀ k, LowestFree s.tx k → exec (.sendReqAgain slave) s =
        .next ((s.handed k ⟨true, false, s.pending.fid, s.pending.dlc,
          s.pending.msg.keep s.pending.dlc.toNat⟩).returned (statusResult .success))) ∧
      (NoneFree s.tx → exec (.sendReqAgain slave) s = .next { s with
        run := some (.sendReqAgain ⟨true, false, s.pending.fid, s.pending.dlc,
          s.pending.msg.keep s.pending.dlc.toNat⟩) }) ∧
      TransmitThen (.sendReqAgain ⟨true, false, s.pending.fid, s.pending.dlc,
          s.pending.msg.keep s.pending.dlc.toNat⟩)
        ⟨true, false, s.pending.fid, s.pending.dlc, s.pending.msg.keep s.pending.dlc.toNat⟩
        fun v => v.returned (statusResult .success))

/-- A resend is bit-identical to the request: after a SEND_REQ that is handed over at once, SEND_REQ_AGAIN
in any later state with the same PENDING, also under another master ID, hands over the same frame
(42_master_request.md R151). -/
def Obligations.ResendIsBitIdentical : Prop :=
  ∀ (s : State) (slave : BitVec 7) (tos : BitVec 2) (control : BitVec 16) (dlc : BitVec 4) (msg : Message),
    s.run = none → s.configured = true → s.nodeId.extractLsb' 0 4 = 0 → dlc.toNat ≤ 8 →
    (∃ k, LowestFree s.tx k) →
    ∃ (t : State) (f : Frame), exec (.sendReq slave tos control dlc msg) s = .next t ∧
      t.txRecord = s.txRecord ++ [f] ∧
      ∀ u : State, u.run = none → u.configured = true → u.nodeId.extractLsb' 0 4 = 0 →
        u.pending = t.pending → (∃ k, LowestFree u.tx k) →
        ∃ v, exec (.sendReqAgain slave) u = .next v ∧ v.txRecord = u.txRecord ++ [f] ∧
          v.pending = t.pending

/-- WAIT_ACK_NB (42_master_request.md R152, the sender test of R153): exactly one poll. That it is in the
step that issues the command is the model's granularity (log 2). -/
def Obligations.WaitAckNbResult : Prop :=
  Encodes 0x5 (fun cmd _ => .waitAckNb (cmd.extractLsb' 8 7)) ∧
  ∀ (s : State) (slave : BitVec 7), s.run = none →
    (s.aq = [] → exec (.waitAckNb slave) s = .next (s.returned (statusResult .pending))) ∧
    ∀ (f : Frame) (q : List Frame), s.aq = f :: q →
      (¬ IsFrom slave (f.id.extractLsb' 13 16) → exec (.waitAckNb slave) s = .next ({ s with
        aq := q, record := s.record ++ [Observation.discardedAck f] }.returned (statusResult .pending))) ∧
      (IsFrom slave (f.id.extractLsb' 13 16) → f.id.extractLsb' 11 2 = 2 → exec (.waitAckNb slave) s =
        .next ({ s with aq := q }.returned (statusResult .retryRequested))) ∧
      (IsFrom slave (f.id.extractLsb' 13 16) → f.id.extractLsb' 11 2 ≠ 2 → exec (.waitAckNb slave) s =
        .next ({ s with aq := q }.returned
          ⟨.success, 0, f.dlc, f.id.extractLsb' 11 2, f.data.keep (min f.dlc.toNat 8)⟩))

/-- WAIT_ACK begins with BUDGET at ACK_POLL_BUDGET and polls (42_master_request.md R154): an empty queue
uses up one poll; an acknowledge of the slave that is no RETRY ends it with `Success`; any acknowledge at
the head of AQ is taken as its row says (AckAtWaitAck). That the first
poll belongs to the step that issues the command is the model's granularity (log 2). -/
def Obligations.WaitAckStarts : Prop :=
  Encodes 0x6 (fun cmd _ => .waitAck (cmd.extractLsb' 8 7)) ∧
  ∀ (s : State) (slave : BitVec 7), s.run = none →
    (s.aq = [] → 1 < s.params.ackPollBudget → exec (.waitAck slave) s =
      .next { s with run := some (.waitAck slave), budget := some (s.params.ackPollBudget - 1) }) ∧
    (s.aq = [] → s.params.ackPollBudget = 1 → exec (.waitAck slave) s =
      .next ({ s with budget := none }.returned (statusResult .timeout))) ∧
    (∀ (f : Frame) (q : List Frame), s.aq = f :: q → IsFrom slave (f.id.extractLsb' 13 16) →
      f.id.extractLsb' 11 2 ≠ 2 → exec (.waitAck slave) s = .next ({ s with
        aq := q, budget := none }.returned
          ⟨.success, 0, f.dlc, f.id.extractLsb' 11 2, f.data.keep (min f.dlc.toNat 8)⟩)) ∧
    (∀ (f : Frame) (q : List Frame) (i : Instr), s.aq = f :: q → f.id.getLsbD 0 = true →
      decode (.frame f) = .ok i → exec (.waitAck slave) s = exec i { s with
        aq := q, run := some (.waitAck slave), budget := some s.params.ackPollBudget })

/-- A poll of an empty AQ: WAIT_ACK and the probe use up one of the polls left, and at the last one
WAIT_ACK ends with `Timeout`, and the probe fails: its candidate is counted or given up
(42_master_request.md R154; 43_discovery.md R192, R195; 44_dispatcher.md R220). -/
def Obligations.EmptyPoll : Prop :=
  ∀ (s : State) (rest : List BusAction) (b : Nat), Quiet s rest → s.aq = [] → s.budget = some b →
    (∀ slave, s.run = some (.waitAck slave) →
      (1 < b → step s = .next { s with bus := rest, budget := some (b - 1) }) ∧
      (b = 1 → step s = .next ({ s with bus := rest, budget := none }.returned (statusResult .timeout)))) ∧
    (∀ c n, s.run = some (.probeWait c n) →
      (1 < b → step s = .next { s with bus := rest, budget := some (b - 1) }) ∧
      (b = 1 → step s = .next { s with
        bus := rest
        budget := none
        slaveIndex := s.slaveIndex.set (c.toNat - s.params.scanFirst.toNat)
          (if n < s.params.scanRetryLimit then .unresolved n else .absent)
        locked := none
        run := some .drain }))

/-- The four acknowledge rows at WAIT_ACK's poll (30_encoding.md R75; 42_master_request.md R152 to R154):
OK, READ and ERROR from the slave end it with `Success` and the payload; RETRY resends PENDING, or ends it
with the resend's error; an acknowledge that is not from the slave is logged and uses up a poll. -/
def Obligations.AckAtWaitAck : Prop :=
  ∀ (s : State) (slave : BitVec 7) (q : FrameOps), s.run = some (.waitAck slave) →
    (IsFrom slave q.control → ∀ x ∈ [(Instr.ackOk q, 0#2), (.ackRead q, 1#2), (.ackError q, 3#2)],
      exec x.1 s = .next ({ s with budget := none }.returned
        ⟨.success, 0, q.dlc, x.2, q.data.keep (min q.dlc.toNat 8)⟩)) ∧
    (IsFrom slave q.control →
      (s.configured = false → exec (.ackRetry q) s =
        .next ({ s with budget := none }.returned (statusResult .notConfigured))) ∧
      (s.configured = true → s.nodeId.extractLsb' 0 4 ≠ 0 → exec (.ackRetry q) s =
        .next ({ s with budget := none }.returned (statusResult .notMaster))) ∧
      (s.configured = true → s.nodeId.extractLsb' 0 4 = 0 →
        s.pending.valid = false ∨ s.pending.slaveId ≠ slave → exec (.ackRetry q) s =
        .next ({ s with budget := none }.returned (statusResult .sequenceError))) ∧
      (s.configured = true → s.nodeId.extractLsb' 0 4 = 0 → s.pending.valid = true →
        s.pending.slaveId = slave → exec (.ackRetry q) s =
        .next { s with run := some (.waitAckResend slave ⟨true, false, s.pending.fid, s.pending.dlc,
          s.pending.msg.keep s.pending.dlc.toNat⟩) })) ∧
    (¬ IsFrom slave q.control → ∀ b, s.budget = some b →
      ∀ x ∈ [(Instr.ackOk q, 0#2), (.ackRead q, 1#2), (.ackRetry q, 2#2), (.ackError q, 3#2)],
        (1 < b → exec x.1 s = .next { s with
          budget := some (b - 1)
          record := s.record ++ [Observation.discardedAck
            ⟨true, false, pack ⟨q.control, x.2, q.ms, q.node, 1⟩, q.dlc, q.data⟩] }) ∧
        (b = 1 → exec x.1 s = .next ({ s with
          budget := none
          record := s.record ++ [Observation.discardedAck
            ⟨true, false, pack ⟨q.control, x.2, q.ms, q.node, 1⟩, q.dlc, q.data⟩] }.returned
          (statusResult .timeout))))

/-- The four acknowledge rows at the probe's poll (43_discovery.md R192 to R195): OK, READ and ERROR from
the candidate give it the first free slot, or make it Absent when the table is full; RETRY resends the
ping; an acknowledge that is not from the candidate is logged and uses up a poll, the last of which ends
the probe as failed. After the probe HANDLER is unlocked and at its drain (44_dispatcher.md R220). -/
def Obligations.AckAtProbe : Prop :=
  ∀ (s : State) (c : BitVec 7) (n : Nat) (q : FrameOps), s.run = some (.probeWait c n) →
    (IsFrom c q.control → ∀ i ∈ [Instr.ackOk q, .ackRead q, .ackError q],
      (∀ j, FirstFree s.slaveRecord j → exec i s = .next { s with
        budget := none
        slaveRecord := s.slaveRecord.set j ⟨true, q.data.keep (min q.dlc.toNat 8)⟩
        slaveIndex := s.slaveIndex.set (c.toNat - s.params.scanFirst.toNat) (.found j)
        locked := none
        run := some .drain }) ∧
      (TableFull s.slaveRecord → exec i s = .next { s with
        budget := none
        slaveIndex := s.slaveIndex.set (c.toNat - s.params.scanFirst.toNat) .absent
        locked := none
        run := some .drain })) ∧
    (IsFrom c q.control → s.isMaster = true → s.pending.valid = true → s.pending.slaveId = c →
      exec (.ackRetry q) s = .next { s with run := some (.probeResend c n
        ⟨true, false, s.pending.fid, s.pending.dlc, s.pending.msg.keep s.pending.dlc.toNat⟩) }) ∧
    (¬ IsFrom c q.control → ∀ b, s.budget = some b →
      ∀ x ∈ [(Instr.ackOk q, 0#2), (.ackRead q, 1#2), (.ackRetry q, 2#2), (.ackError q, 3#2)],
        (1 < b → exec x.1 s = .next { s with
          budget := some (b - 1)
          record := s.record ++ [Observation.discardedAck
            ⟨true, false, pack ⟨q.control, x.2, q.ms, q.node, 1⟩, q.dlc, q.data⟩] }) ∧
        (b = 1 → exec x.1 s = .next { s with
          budget := none
          record := s.record ++ [Observation.discardedAck
            ⟨true, false, pack ⟨q.control, x.2, q.ms, q.node, 1⟩, q.dlc, q.data⟩]
          slaveIndex := s.slaveIndex.set (c.toNat - s.params.scanFirst.toNat)
            (if n < s.params.scanRetryLimit then .unresolved n else .absent)
          locked := none
          run := some .drain }))

/-- Transmit (40_codec.md R108) and what each command does after it (42_master_request.md R150, R151, R154;
43_discovery.md R193; 44_dispatcher.md R221, R244; 45_ack_responder.md R270): the frame goes into the
lowest-numbered free slot and into the record, and the command goes on; with no free slot it holds, and
nothing changes but the BUS's turn. A hold as a step to the same state is the model's reading (log 4). -/
def Obligations.TransmitStep : Prop :=
  ∀ (s : State) (rest : List BusAction) (p : Point) (f : Frame), Quiet s rest → s.run = some p →
    p.frame? = some f →
    (NoneFree s.tx → step s = .next { s with bus := rest }) ∧
    (∀ k, LowestFree s.tx k →
      (∀ slave, p = .sendReq slave f → step s = .next ({ { s with bus := rest }.handed k f with
        pending := ⟨true, slave, f.id, f.data, f.dlc⟩ }.returned (statusResult .success))) ∧
      (p = .sendReqAgain f →
        step s = .next (({ s with bus := rest }.handed k f).returned (statusResult .success))) ∧
      (p = .sendAck f →
        step s = .next (({ s with bus := rest }.handed k f).returned (statusResult .success))) ∧
      (∀ slave, p = .waitAckResend slave f → step s = .next { { s with bus := rest }.handed k f with
        budget := some s.params.ackPollBudget, run := some (.waitAck slave) }) ∧
      (∀ c n, p = .probeSend c n f → step s = .next { { s with bus := rest }.handed k f with
        pending := ⟨true, c, f.id, f.data, f.dlc⟩
        budget := some s.params.ackPollBudget
        run := some (.probeWait c n) }) ∧
      (∀ c n, p = .probeResend c n f → step s = .next { { s with bus := rest }.handed k f with
        budget := some s.params.ackPollBudget, run := some (.probeWait c n) }) ∧
      (p = .reply f → step s = .next { { s with bus := rest }.handed k f with run := some .drain }))

/-! ### The acknowledge responder -/

/-- SEND_ACK (45_ack_responder.md R270): its checks in order, and its frame in the lowest-numbered free
slot; with no free slot the command holds at its Transmit until one is free. That the Transmit is in the
step that issues the command is the model's granularity (log 2), the hold log 4. -/
def Obligations.SendAckResult : Prop :=
  Encodes 0x7 (fun cmd data => .sendAck (cmd.extractLsb' 8 7) (cmd.extractLsb' 16 2)
    (cmd.extractLsb' 4 4) (Message.ofData data)) ∧
  ∀ (s : State) (master : BitVec 7) (tos : BitVec 2) (dlc : BitVec 4) (msg : Message), s.run = none →
    (s.configured = false → exec (.sendAck master tos dlc msg) s =
      .next (s.returned (statusResult .notConfigured))) ∧
    (s.configured = true → master.extractLsb' 0 4 ≠ 0 → exec (.sendAck master tos dlc msg) s =
      .next (s.returned (statusResult .invalidTarget))) ∧
    (s.configured = true → master.extractLsb' 0 4 = 0 → 8 < dlc.toNat →
      exec (.sendAck master tos dlc msg) s = .next (s.returned (statusResult .invalidLength))) ∧
    (s.configured = true → master.extractLsb' 0 4 = 0 → dlc.toNat ≤ 8 →
      (∀ k, LowestFree s.tx k → exec (.sendAck master tos dlc msg) s =
        .next ((s.handed k (acknowledgeOf s.nodeId master tos dlc msg)).returned
          (statusResult .success))) ∧
      (NoneFree s.tx → exec (.sendAck master tos dlc msg) s =
        .next { s with run := some (.sendAck (acknowledgeOf s.nodeId master tos dlc msg)) }) ∧
      TransmitThen (.sendAck (acknowledgeOf s.nodeId master tos dlc msg))
        (acknowledgeOf s.nodeId master tos dlc msg) fun v => v.returned (statusResult .success))

/-! ### Discovery -/

/-- SLAVE_INFO_GET (43_discovery.md R196): its checks in order, and the pong of a Found slave. -/
def Obligations.SlaveInfoGetResult : Prop :=
  Encodes 0x8 (fun cmd _ => .slaveInfoGet (cmd.extractLsb' 8 7)) ∧
  ∀ (s : State) (slave : BitVec 7), s.run = none →
    (s.configured = false →
      exec (.slaveInfoGet slave) s = .next (s.returned (statusResult .notConfigured))) ∧
    (s.configured = true → s.nodeId.extractLsb' 0 4 ≠ 0 →
      exec (.slaveInfoGet slave) s = .next (s.returned (statusResult .notMaster))) ∧
    (s.configured = true → s.nodeId.extractLsb' 0 4 = 0 →
      slave.toNat < s.params.scanFirst.toNat ∨ s.params.scanLast.toNat < slave.toNat →
      exec (.slaveInfoGet slave) s = .next (s.returned (statusResult .outOfRange))) ∧
    (s.configured = true → s.nodeId.extractLsb' 0 4 = 0 →
      s.params.scanFirst.toNat ≤ slave.toNat → slave.toNat ≤ s.params.scanLast.toNat →
      (∀ e, s.slaveIndex[slave.toNat - s.params.scanFirst.toNat]? = some e → (∀ i, e ≠ .found i) →
        exec (.slaveInfoGet slave) s = .next (s.returned (statusResult .notFound))) ∧
      (∀ i r, s.slaveIndex[slave.toNat - s.params.scanFirst.toNat]? = some (.found i) →
        s.slaveRecord[i]? = some r →
        exec (.slaveInfoGet slave) s = .next (s.returned ⟨.success, 0, 0, 0, r.pong⟩)))

/-- SUCC (43_discovery.md R191). -/
def Obligations.SuccCyclesInRange : Prop :=
  (∀ (p : Params) (c : BitVec 7),
    candidateSucc p c = if c = p.scanLast then p.scanFirst else c + 1) ∧
  (∀ p : Params, p.scanFirst = p.scanLast → candidateSucc p p.scanFirst = p.scanFirst) ∧
  (∀ (p : Params) (c : BitVec 7), p.scanFirst.toNat ≤ c.toNat → c.toNat ≤ p.scanLast.toNat →
    p.scanFirst.toNat ≤ (candidateSucc p c).toNat ∧ (candidateSucc p c).toNat ≤ p.scanLast.toNat ∧
    (c ≠ p.scanLast → (candidateSucc p c).toNat = c.toNat + 1))

/-! ### HANDLER -/

/-- HANDLER on a node that is no master (44_dispatcher.md R220, R221, R238): no scan; unlocked; `Success`
at once when RQ is empty, else at the drain's poll. During a `Call` it is refused. Which of its steps makes
the first poll is the model's granularity (log 2). -/
def Obligations.HandlerWithoutScan : Prop :=
  Encodes 0x9 (fun _ _ => .handler) ∧ ∀ s : State, s.run = none →
    (∀ h, s.outer = some h → exec .handler s = .refused .nestedHandler) ∧
    (s.outer = none → s.configured = false ∨ s.nodeId.extractLsb' 0 4 ≠ 0 →
      (s.rq = [] → exec .handler s = .next ({ s with locked := none }.returned (statusResult .success))) ∧
      (s.rq ≠ [] → exec .handler s = .next { s with locked := none, run := some .drain }))

/-- HANDLER on a master node (43_discovery.md R192, R193; 44_dispatcher.md R220): the candidate is the
cursor, or its successor when the cursor is at the node's own ID; the cursor moves past it. An Unresolved
candidate is pinged and its probe waits, with PENDING and BUDGET set, or holds while no slot is free. With
nothing to probe, HANDLER goes on as on any node. That the ping is in the step that issues the command is
the model's granularity (log 2), the hold log 4. -/
def Obligations.HandlerScans : Prop :=
  ∀ (s : State) (c : BitVec 7), s.run = none → s.outer = none → s.configured = true →
    s.nodeId.extractLsb' 0 4 = 0 →
    c = (if s.scanCursor = s.nodeId then candidateSucc s.params s.scanCursor else s.scanCursor) →
    ((c = s.nodeId ∨ s.indexOf c = some .absent ∨ ∃ i, s.indexOf c = some (.found i)) →
      (s.rq = [] → exec .handler s = .next ({ s with
        scanCursor := candidateSucc s.params c, locked := none }.returned (statusResult .success))) ∧
      (s.rq ≠ [] → exec .handler s = .next { s with
        scanCursor := candidateSucc s.params c, locked := none, run := some .drain })) ∧
    (∀ m, c ≠ s.nodeId → s.indexOf c = some (.unresolved m) →
      (∀ k, LowestFree s.tx k → exec .handler s =
        .next { s.handed k (requestOf s.nodeId c 3 0 0 Message.zero) with
          scanCursor := candidateSucc s.params c
          pending := ⟨true, c, pack ⟨0, 3, s.nodeId.extractLsb' 4 3, c, 0⟩, Message.zero, 0⟩
          budget := some s.params.ackPollBudget
          run := some (.probeWait c (m + 1)) }) ∧
      (NoneFree s.tx → exec .handler s = .next { s with
        scanCursor := candidateSucc s.params c
        run := some (.probeSend c (m + 1) (requestOf s.nodeId c 3 0 0 Message.zero)) }))

/-- DRAIN on an empty RQ: HANDLER ends with `Success` while unlocked, and holds while locked
(44_dispatcher.md R220, R221; 70_reset_and_hazards.md R331). The hold as a step to the same state is the
model's reading (log 4). -/
def Obligations.DrainOnEmptyQueue : Prop :=
  ∀ (s : State) (rest : List BusAction), Quiet s rest → s.run = some .drain → s.rq = [] →
    (s.locked = none → step s = .next ({ s with bus := rest }.returned (statusResult .success))) ∧
    (∀ h, s.locked = some h → step s = .next { s with bus := rest })

/-- Reserved opcodes 0xA to 0xF (60_exceptions.md R284). -/
def Obligations.ReservedCommandsIllegal : Prop :=
  ∀ s : State, s.run = none →
    (∀ i ∈ [Instr.reservedA, .reservedB, .reservedC, .reservedD, .reservedE, .reservedF],
      exec i s = .next (s.returned (statusResult .illegalCommand))) ∧
    (∀ cmd data : BitVec 64, 10 ≤ (cmd.extractLsb' 0 4).toNat →
      ∃ i, decode (.command cmd data) = .ok i ∧
        exec i s = .next (s.returned (statusResult .illegalCommand)))

/-! ### The dispatcher -/

/-- Lock (44_dispatcher.md R225) and Unlock (R226), from any sender while unlocked and from the holder
while locked, with any `dlc`; and their reply (R244). The reply's hold as a step to the same state is the
model's reading (log 4). -/
def Obligations.LockAndUnlock : Prop :=
  ∀ (s : State) (q : EtosOps), Admits s q.ms →
    exec (.etosLock q) s = .next ({ s with locked := some q.ms }.replying q.ms 0) ∧
    exec (.etosUnlock q) s = .next ({ s with locked := none }.replying q.ms 0) ∧
    ReplyLeaves q.ms 0 ∧
    (Instr.etosLock q).row = .frame 0x00000000 0x001FF801 ∧
    (Instr.etosUnlock q).row = .frame 0x00002000 0x001FF801

/-- The reserved, unimplemented and unsupported ETOS codes (44_dispatcher.md R227, R228, R230, R236, R237)
and their reply (R244). The reply's hold as a step to the same state is the model's reading (log 4). -/
def Obligations.RejectedEtos : Prop :=
  ∀ (s : State) (q : EtosOps), Admits s q.ms → ReplyLeaves q.ms 3 ∧
    ∀ x ∈ [(Instr.etosReserved02 q, 0x00004000#29), (.etosReserved03 q, 0x00006000#29),
      (.etosUnimplemented05 q, 0x0000A000#29), (.etosReserved0B q, 0x00016000#29),
      (.etosReserved0C q, 0x00018000#29), (.etosReserved0D q, 0x0001A000#29),
      (.etosReserved0E q, 0x0001C000#29), (.etosClone q, 0x0001E000#29)],
      exec x.1 s = .next (s.replying q.ms 3) ∧ x.1.row = .frame x.2 0x001FF801

/-- The Init ETOS (44_dispatcher.md R229): the hook on any `dlc`, then `REPLY(OK)`. That the Call is made in
the step that reaches it is the model's granularity (log 2), the reply's hold log 4. -/
def Obligations.InitHookRequest : Prop :=
  ∀ (s : State) (q : EtosOps), Admits s q.ms →
    exec (.etosInitHook q) s = .next (s.calling
      (.hook .init (q.ms.setWidth 7 <<< 4) (q.data.keep (min q.dlc.toNat 8)) q.dlc)
      (some (q.ms.setWidth 7 <<< 4))) ∧
    RepliesOkAfter (.hook .init (q.ms.setWidth 7 <<< 4) (q.data.keep (min q.dlc.toNat 8)) q.dlc) q.ms ∧
    ReplyLeaves q.ms 0 ∧
    (Instr.etosInitHook q).row = .frame 0x00008000 0x001FF801

/-- The fixed-length ETOS codes, property P7 (44_dispatcher.md R231 to R235): on the exact raw `dlc` the
hook and then `REPLY(OK)`, on every other `dlc` `REPLY(ERROR)` and no hook. That the Call is made in the
step that reaches it is the model's granularity (log 2), the reply's hold log 4. -/
def Obligations.FixedLengthEtos : Prop :=
  ∀ (s : State) (q : EtosOps), Admits s q.ms → ReplyLeaves q.ms 0 ∧ ReplyLeaves q.ms 3 ∧
    ∀ x ∈ [(Instr.etosNotifyEvent q, HookKind.event, 3, 0x0000C000#29),
      (.etosNotifySysex q, .sysex, 1, 0x0000E000#29), (.etosDinToggle q, .din, 2, 0x00010000#29),
      (.etosEncChange q, .enc, 2, 0x00012000#29), (.etosAinChange q, .ain, 3, 0x00014000#29)],
      (q.dlc.toNat = x.2.2.1 → exec x.1 s = .next (s.calling
        (.hook x.2.1 (q.ms.setWidth 7 <<< 4) (q.data.keep (min q.dlc.toNat 8)) q.dlc)
        (some (q.ms.setWidth 7 <<< 4)))) ∧
      RepliesOkAfter (.hook x.2.1 (q.ms.setWidth 7 <<< 4) (q.data.keep (min q.dlc.toNat 8)) q.dlc) q.ms ∧
      (q.dlc.toNat ≠ x.2.2.1 → exec x.1 s = .next (s.replying q.ms 3)) ∧
      x.1.row = .frame x.2.2.2 0x001FF801

/-- The forwarded requests (44_dispatcher.md R239 to R242, R245): the callback with the whole `control`
and the raw `dlc`, and no reply from the CORE. That the Call is made in the step that reaches it is the
model's granularity (log 2). -/
def Obligations.ForwardedRequests : Prop :=
  ∀ (s : State) (q : FrameOps), Admits s q.ms →
    ∀ x ∈ [(Instr.etosApp1 q, 0#2, 0x00100000#29, 0x00101801#29),
      (.etosApp2 q, 0#2, 0x00080000#29, 0x00181801#29), (.etosApp3 q, 0#2, 0x00040000#29, 0x001C1801#29),
      (.etosApp4 q, 0#2, 0x00020000#29, 0x001E1801#29), (.ramRead q, 1#2, 0x00000800#29, 0x00001801#29),
      (.ramWrite q, 2#2, 0x00001000#29, 0x00001801#29), (.ping q, 3#2, 0x00001800#29, 0x00001801#29)],
      exec x.1 s = .next (s.calling (.callback (q.ms.setWidth 7 <<< 4) x.2.1 q.control
        (q.data.keep (min q.dlc.toNat 8)) q.dlc) none) ∧
      SendsNothingAfter (.callback (q.ms.setWidth 7 <<< 4) x.2.1 q.control
        (q.data.keep (min q.dlc.toNat 8)) q.dlc) ∧
      x.1.row = .frame x.2.2.1 x.2.2.2

/-- LOCKED_REJECT (44_dispatcher.md R222): every request of another master while locked gets `ACK_RETRY`
and nothing else happens; and the reply (R244). The last clause is the rule's example. The reply's hold as a
step to the same state is the model's reading (log 4). -/
def Obligations.LockedOutRequests : Prop :=
  (∀ (s : State) (i : Instr) (m h : BitVec 3), requestMs i = some m → s.run = some .drain →
    s.locked = some h → m ≠ h → exec i s = .next (s.replying m 2) ∧ ReplyLeaves m 2) ∧
  (∀ (s : State) (q : FrameOps), s.run = some .drain → s.locked = some 2 → s.configured = true →
    s.nodeId = 0x05 → q.ms = 5 →
    exec (.ramRead q) s = .next { s with
      run := some (.reply ⟨true, false, 0x0000B0A1, 0, Message.zero⟩) })

/-! ### Stops -/

/-- The model refuses HANDLER and INIT during a `Call` (44_dispatcher.md R238), and nothing else
(60_exceptions.md R295). That no command runs at that moment is when the HOST has the turn (00_scope.md R8);
with one running, exec faults with `portBusy`, the model's choice (log 6). -/
def Obligations.OnlyNestedRefused : Prop :=
  ∀ (i : Instr) (s : State) (r : Refusal), exec i s = .refused r ↔
    s.run = none ∧ s.depth = 1 ∧
      ((i = .handler ∧ r = .nestedHandler) ∨ (i = .init ∧ r = .nestedInit))

/-- No step faults while the queues hold only what the filters accept (60_exceptions.md R280). -/
def Obligations.StepNeverFaults : Prop :=
  ∀ (s : State) (r : Fault), QueueInv s → step s ≠ .fault r

/-- An error status has no side effect (60_exceptions.md R282): a command other than WAIT_ACK that ends
with an error in the step that begins it has changed the result registers and the record of results, and
nothing else. -/
def Obligations.ErrorHasNoSideEffect : Prop :=
  ∀ (i : Instr) (s t : State), (∀ slave, i ≠ .waitAck slave) → s.run = none → exec i s = .next t →
    t.run = none → 3 ≤ t.res.status.code.toNat → t = s.returned t.res

/-! ### Invariants and whole-machine rules -/

/-- Every step keeps the receive queues: only accepted frames, at most RXQ_DEPTH (40_codec.md R104 to
R106). -/
def Obligations.QueueInvKept : Prop :=
  ∀ s t : State, QueueInv s → Next s t → QueueInv t

/-- Every step keeps the discovery tables: sizes and ranges, the cursor in the range, SLAVE_INDEX and
SLAVE_RECORD one to one on Found (10_state.md R26 to R28; 43_discovery.md R194, R197). -/
def Obligations.TableInvKept : Prop :=
  ∀ s t : State, TableInv s → Next s t → TableInv t

/-- Every step keeps the control point, LOCKED and BUDGET where they may exist (10_state.md R21, R29, R30;
60_exceptions.md R287). -/
def Obligations.ControlInvKept : Prop :=
  ∀ s t : State, ControlInv s → Next s t → ControlInv t

/-- Every step keeps what the probe relies on (43_discovery.md R193). -/
def Obligations.ProbeInvKept : Prop :=
  ∀ s t : State, ProbeInv s → Next s t → ProbeInv t

/-- Every step keeps it that the CORE transmits only MBNet frames and that PENDING is a request to its
slave (30_encoding.md R72, R73; 10_state.md R25). -/
def Obligations.FrameInvKept : Prop :=
  ∀ s t : State, FrameInv s → Next s t → FrameInv t

/-- Every step keeps it that a frame handed to Transmit is in a busy slot or on the wire, once each
(40_codec.md R108, R109). The wire is the model's field (log 7). -/
def Obligations.WireInvKept : Prop :=
  ∀ s t : State, WireInv s → Next s t → WireInv t

/-- Power-on, field by field (10_state.md R39; 70_reset_and_hazards.md R310, R311), for every choice of the
parameters, and the machine after reset with the parameters of Config, which are in their ranges. LOCKED
and BUDGET as absent, the empty wire and the empty inputs are the model's fields (logs 1, 7, 8), and the
OPEN parameters its constants (log 3). -/
def Obligations.ResetState : Prop :=
  (∀ p : Params, State.powerOn p =
    { params := p, configured := false, nodeId := 0, pending := ⟨false, 0, 0, Message.zero, 0⟩,
      slaveIndex := List.replicate (p.scanLast.toNat - p.scanFirst.toNat + 1) (.unresolved 0),
      slaveRecord := List.replicate p.slaveTableCapacity ⟨false, Message.zero⟩,
      scanCursor := p.scanFirst, locked := none, budget := none, res := statusResult .success,
      run := none, outer := none, rq := [], aq := [], tx := List.replicate p.txSlots .free,
      wire := [], record := [], host := [], bus := [], busCycle := [] }) ∧
  State.reset = State.powerOn Config.params ∧ Config.params.Valid ∧
  State.reset.controlPoint = .idle ∧ State.reset.role = .unconfigured ∧
  State.reset.params.ackPollBudget = 1000

/-- The machine after power-on meets every invariant, for all legal parameters; so does the machine after
reset. WireInv rests on the model's empty wire (log 7). -/
def Obligations.ResetMeetsInvariants : Prop :=
  (∀ p : Params, p.Valid → QueueInv (State.powerOn p) ∧ TableInv (State.powerOn p) ∧
    ControlInv (State.powerOn p) ∧ ProbeInv (State.powerOn p) ∧ FrameInv (State.powerOn p) ∧
    WireInv (State.powerOn p)) ∧
  (QueueInv State.reset ∧ TableInv State.reset ∧ ControlInv State.reset ∧ ProbeInv State.reset ∧
    FrameInv State.reset ∧ WireInv State.reset)

/-- Who writes what (10_state.md R22, R25 to R28, R31, R32, R37, R38): the parameters never change; the
observation record and the wire only grow; the node identity changes by INIT and NODEID_SET alone; PENDING
by INIT, SEND_REQ and the probe; the discovery tables by INIT and at the end of a probe; the cursor by
INIT and HANDLER; the result registers when a command returns its result. -/
def Obligations.StateWriters : Prop :=
  ∀ s t : State, Next s t →
    t.params = s.params ∧ s.record <+: t.record ∧ s.wire <+: t.wire ∧
    (t.configured ≠ s.configured ∨ t.nodeId ≠ s.nodeId →
      ∃ u, s.runs = some (.init, u) ∨ ∃ id : BitVec 8, id.toNat < 128 ∧ s.runs = some (.nodeidSet id, u)) ∧
    (t.pending ≠ s.pending →
      (∃ u, s.runs = some (.init, u) ∨ s.runs = some (.handler, u) ∨
        ∃ slave tos control dlc msg, s.runs = some (.sendReq slave tos control dlc msg, u)) ∨
      (∃ slave f, s.run = some (.sendReq slave f)) ∨ (∃ c n f, s.run = some (.probeSend c n f))) ∧
    (t.slaveIndex ≠ s.slaveIndex ∨ t.slaveRecord ≠ s.slaveRecord →
      (∃ u, s.runs = some (.init, u)) ∨
      (∃ c n, s.run = some (.probeWait c n) ∧ t.run = some .drain)) ∧
    (t.scanCursor ≠ s.scanCursor → ∃ u, s.runs = some (.init, u) ∨ s.runs = some (.handler, u)) ∧
    (t.res ≠ s.res → t.run = none ∧ t.record.getLast? = some (.result t.res))

/-- A SLAVE_INDEX entry changes only when a probe of its candidate ends, by one of the transitions of
43_discovery.md R190, or by INIT: Found and Absent are final until reset. -/
def Obligations.EntryTransitions : Prop :=
  ∀ s t : State, TableInv s → Next s t → (∀ u, s.runs ≠ some (.init, u)) →
    ∀ c : BitVec 7, t.indexOf c = s.indexOf c ∨
      ∃ m n e, s.run = some (.probeWait c n) ∧ t.run = some .drain ∧
        s.indexOf c = some (.unresolved m) ∧ t.indexOf c = some e ∧
        EntryMove s.params s.slaveRecord (.unresolved m) e

/-- The lock's lifetime (20_memory.md R61; 70_reset_and_hazards.md R341): only a Lock takes it, for its
sender; only the holder's Unlock ends it; HANDLER does not end while it is held. -/
def Obligations.LockLifetime : Prop :=
  ∀ s t : State, ControlInv s → Next s t →
    (∀ m, s.locked = some m → t.locked = some m ∨
      ∃ q u, s.runs = some (.etosUnlock q, u) ∧ q.ms = m) ∧
    (∀ m, t.locked = some m → s.locked = some m ∨
      ∃ q u, s.runs = some (.etosLock q, u) ∧ q.ms = m) ∧
    (s.locked ≠ none → t.controlPoint ≠ .idle)

/-- Property P5 over runs (44_dispatcher.md R246): while the node stays locked by the master of slot `m`,
every event passed to `Call` is that master's. -/
def Obligations.LockedCallsAreHolders : Prop :=
  ∀ (s t : State) (m : BitVec 3), ControlInv s → Reaches s t →
    (∀ u, Reaches s u → Reaches u t → u.locked = some m) →
    ∃ evs, t.callRecord = s.callRecord ++ evs ∧ ∀ ev ∈ evs, eventMaster ev = m.setWidth 7 <<< 4

/-- Where runs end and which have no end (00_scope.md R11; 70_reset_and_hazards.md R312, R330 to R333).
- An ended run stays ended, with its observation as it is.
- A Lock queued before an INIT is never undone: locked, unconfigured and with an empty queue, HANDLER holds
  forever, whatever the BUS and the HOST do.
- A command at a Transmit with no free slot hangs if the BUS never frees one.
- While a lock's holder never sends Unlock, the run has no end.
- A BUS that delivers RETRY from the slave for ever, and takes the frames to the wire, keeps WAIT_ACK and the
  probe running for ever, with one resend every round of its cycle of two draws.
- A HOST that never returns from a Call leaves the run without end, and hangs it when it also issues nothing.
A hold as a step to the same state is log 4, the BUS's cycle log 1, the steps of a round log 2. -/
def Obligations.HangsHaveNoEnd : Prop :=
  (∀ s t : State, s.Ended → Reaches s t → t.Ended ∧ t.record = s.record) ∧
  (∀ (s t : State) (m : BitVec 3), s.configured = false → s.run = some .drain → s.rq = [] →
    s.locked = some m → Reaches s t →
    t.run = some .drain ∧ t.locked = some m ∧ t.rq = [] ∧ t.configured = false ∧
      t.record = s.record) ∧
  (∀ (s : State) (p : Point) (f : Frame), s.run = some p → p.frame? = some f → NoneFree s.tx →
    NeverSends s → Hangs s ∧ ∀ t, Reaches s t → t.run = s.run ∧ t.tx = s.tx ∧ t.record = s.record) ∧
  (∀ (s : State) (m : BitVec 3), ControlInv s → s.locked = some m → NeverUnlocks m s → NeverEnds s) ∧
  (∀ (s : State) (p : Point) (slave : BitVec 7) (g : Frame), s.run = some p →
    (p = .waitAck slave ∨ ∃ n, p = .probeWait slave n) → s.isMaster = true → s.pending.valid = true →
    s.pending.slaveId = slave → s.filterMatch g = .toAq → IsRetry slave (receivedFrame g) →
    (∀ f ∈ s.aq, IsRetry slave f) → 1 ≤ s.params.rxqDepth → s.tx ≠ [] →
    s.bus = [.deliver g, .sent 0] → s.busCycle = [.deliver g, .sent 0] →
    Hangs s ∧ ∀ n, ∃ t, Host.Core.run Sys2Proof.core (6 * n) s = .next t ∧ t.run = some p ∧
      t.txRecord = s.txRecord ++ List.replicate n s.pendingFrame) ∧
  (∀ s : State, s.outer.isSome = true → (∀ v, .ret v ∉ s.host) →
    NeverEnds s ∧ (s.run = none → s.host = [] → Hangs s))

/-! ### Runs -/

/-- Property P4 (42_master_request.md R155): with no acknowledge arriving, WAIT_ACK ends with `Timeout` at
exactly its ACK_POLL_BUDGET-th poll, with nothing transmitted; before that it is still polling. That a
poll is a step, the first one together with the issue, is the model's granularity (log 2). -/
def Obligations.TimeoutAfterBudget : Prop :=
  ∀ (s : State) (cmd data : BitVec 64) (slave : BitVec 7) (more : List HostAction), s.bus = [] →
    s.busCycle = [] → s.run = none → s.host = .command cmd data :: more → s.aq = [] →
    decode (.command cmd data) = .ok (.waitAck slave) → 1 ≤ s.params.ackPollBudget →
    Host.Core.run Sys2Proof.core s.params.ackPollBudget s =
      .next ({ s with host := more, budget := none }.returned (statusResult .timeout)) ∧
    ∀ k, 1 ≤ k → k < s.params.ackPollBudget → Host.Core.run Sys2Proof.core k s = .next { s with
      host := more, run := some (.waitAck slave), budget := some (s.params.ackPollBudget - k) }

/-- Property P3 (42_master_request.md R156), for every number of retries: on acknowledges that answer
RETRY `n` times, with fewer than ACK_POLL_BUDGET others between two from the slave, and then not RETRY,
WAIT_ACK ends with `Success` and that acknowledge, having resent PENDING exactly `n` times. Each poll and
each resend is one step (log 2). -/
def Obligations.RetriesThenSuccess : Prop :=
  ∀ (s : State) (cmd data : BitVec 64) (slave : BitVec 7) (more : List HostAction) (fs : List Frame)
    (n : Nat) (r : Result), s.bus = [] → s.busCycle = [] → s.run = none → s.host = .command cmd data :: more →
    decode (.command cmd data) = .ok (.waitAck slave) → s.isMaster = true → s.pending.valid = true →
    s.pending.slaveId = slave → s.aq = fs →
    AckScript s.params.ackPollBudget slave s.params.ackPollBudget fs n r → n ≤ s.tx.count .free →
    ∃ t, Host.Core.run Sys2Proof.core (fs.length + n) s = .next t ∧ t.run = none ∧ t.res = r ∧
      r.status = .success ∧ t.aq = [] ∧ t.budget = none ∧ t.host = more ∧ t.pending = s.pending ∧
      t.txRecord = s.txRecord ++ List.replicate n
        ⟨true, false, s.pending.fid, s.pending.dlc, s.pending.msg.keep s.pending.dlc.toNat⟩

/-- A HANDLER command of a master node carries out one SCAN_STEP (43_discovery.md R192 to R195): with no
acknowledge arriving, its probe fails at the last poll; with an answer of the candidate waiting, it is
recorded. The tables and the cursor are then what `scanRound` says. The step counts are the model's
granularity (log 2). -/
def Obligations.HandlerCarriesOutScanRound : Prop :=
  ∀ (s : State) (cmd data : BitVec 64) (more : List HostAction) (c : BitVec 7) (n k : Nat), s.bus = [] →
    s.busCycle = [] → s.run = none → s.outer = none → s.host = .command cmd data :: more →
    decode (.command cmd data) = .ok .handler → s.isMaster = true → s.scanProbe = some (c, n) →
    LowestFree s.tx k → 1 ≤ s.params.ackPollBudget →
    (s.aq = [] → ∃ t, Host.Core.run Sys2Proof.core (s.params.ackPollBudget + 1) s = .next t ∧
      t.run = some .drain ∧ SameTables t (s.scanRound none) ∧
      t.txRecord = s.txRecord ++ [requestOf s.nodeId c 3 0 0 Message.zero]) ∧
    (∀ f q, s.aq = f :: q → IsAccepted 1 f → IsFrom c (unpack f.id).control → (unpack f.id).tos ≠ 2 →
      ∃ t, Host.Core.run Sys2Proof.core 2 s = .next t ∧ t.run = some .drain ∧
        SameTables t (s.scanRound (some f.data)) ∧
        t.txRecord = s.txRecord ++ [requestOf s.nodeId c 3 0 0 Message.zero])

/-- Property P6 (43_discovery.md R197): with K candidates, after K * SCAN_RETRY_LIMIT SCAN_STEPs, whatever
their probes answer, every candidate is Found or Absent. A SCAN_STEP is here `scanRound`, a function of the
state and the probe's answer; HandlerCarriesOutScanRound ties it to the steps of the machine. -/
def Obligations.DiscoveryTerminates : Prop :=
  ∀ (s : State) (answers : List (Option Message)), TableInv s → s.isMaster = true →
    answers.length = s.candidateCount * s.params.scanRetryLimit →
    ∀ c : BitVec 7, s.isCandidate c = true → (s.scanRounds answers).isResolved c = true
end

