-- ==== Sys2Proof/Laws/Codec.lean ====
section
/-! SUPPORT. Lemmas about payload bytes, frames and node IDs. -/

namespace Sys2Proof.Machine

/-- The bytes kept are followed by zeros. -/
theorem keep_zeroFrom (n : Nat) (m : Message) : (m.keep n).zeroFrom n = true := by
  simp only [Message.keep, Message.zeroFrom]
  grind

/-- A message that is zero from `n` on is what keeping `n` bytes gives. -/
theorem keep_of_zeroFrom {n : Nat} {m : Message} (h : m.zeroFrom n = true) : m.keep n = m := by
  obtain ⟨b0, b1, b2, b3, b4, b5, b6, b7⟩ := m
  simp only [Message.zeroFrom, Bool.and_eq_true, Bool.or_eq_true, decide_eq_true_eq, beq_iff_eq] at h
  simp only [Message.keep, Message.mk.injEq]
  grind

/-- Keeping eight bytes or more keeps them all. -/
theorem keep_all {n : Nat} (h : 8 ≤ n) (m : Message) : m.keep n = m := by
  obtain ⟨b0, b1, b2, b3, b4, b5, b6, b7⟩ := m
  simp only [Message.keep, Message.mk.injEq]
  grind

@[simp] theorem keep_zero_message (n : Nat) : Message.zero.keep n = Message.zero := by
  simp [Message.keep]

@[simp] theorem zeroFrom_zero_message (n : Nat) : Message.zero.zeroFrom n = true := by
  simp [Message.zeroFrom]

/-- Zero from `n` on is zero from any later byte on. -/
theorem zeroFrom_mono {n k : Nat} (h : n ≤ k) {m : Message} (hm : m.zeroFrom n = true) :
    m.zeroFrom k = true := by
  simp only [Message.zeroFrom, Bool.and_eq_true, Bool.or_eq_true, decide_eq_true_eq, beq_iff_eq] at *
  grind

theorem dataLength_le (d : BitVec 4) : dataLength d ≤ 8 := Nat.min_le_right _ _

/-- Up to eight, the data length is the code itself. -/
theorem dataLength_of_le {d : BitVec 4} (h : d.toNat ≤ 8) : dataLength d = d.toNat :=
  Nat.min_eq_left h

/-- A received payload is zero beyond the data length. -/
theorem receivedPayload_ok (dlc : BitVec 4) (m : Message) : payloadOk dlc (receivedPayload dlc m) = true :=
  keep_zeroFrom _ _

/-- The payload of a frame as received is its data. -/
theorem receivedPayload_of_ok {dlc : BitVec 4} {m : Message} (h : payloadOk dlc m = true) :
    receivedPayload dlc m = m :=
  keep_of_zeroFrom h

@[simp] theorem buildFrame_ide (id : BitVec 29) (m : Message) (d : BitVec 4) : (buildFrame id m d).ide = true := rfl
@[simp] theorem buildFrame_rtr (id : BitVec 29) (m : Message) (d : BitVec 4) : (buildFrame id m d).rtr = false := rfl
@[simp] theorem buildFrame_id (id : BitVec 29) (m : Message) (d : BitVec 4) : (buildFrame id m d).id = id := rfl
@[simp] theorem buildFrame_dlc (id : BitVec 29) (m : Message) (d : BitVec 4) : (buildFrame id m d).dlc = d := rfl
@[simp] theorem buildFrame_data (id : BitVec 29) (m : Message) (d : BitVec 4) :
    (buildFrame id m d).data = m.keep d.toNat := rfl

/-- The ID of every request's sender is a master ID (44_dispatcher.md R244). -/
@[simp] theorem isMasterId_masterOf (ms : BitVec 3) : isMasterId (masterOf ms) = true := by
  revert ms; decide

end Sys2Proof.Machine
end

