-- ==== Sys2Proof/Laws/State.lean ====
section
/-! SUPPORT. What each named update of the state leaves in each field. -/

namespace Sys2Proof.Machine

/-! ### finish -/

@[simp] theorem finish_params (s : State) (r : Result) : (s.finish r).params = s.params := rfl
@[simp] theorem finish_configured (s : State) (r : Result) : (s.finish r).configured = s.configured := rfl
@[simp] theorem finish_nodeId (s : State) (r : Result) : (s.finish r).nodeId = s.nodeId := rfl
@[simp] theorem finish_pending (s : State) (r : Result) : (s.finish r).pending = s.pending := rfl
@[simp] theorem finish_slaveIndex (s : State) (r : Result) : (s.finish r).slaveIndex = s.slaveIndex := rfl
@[simp] theorem finish_slaveRecord (s : State) (r : Result) : (s.finish r).slaveRecord = s.slaveRecord := rfl
@[simp] theorem finish_scanCursor (s : State) (r : Result) : (s.finish r).scanCursor = s.scanCursor := rfl
@[simp] theorem finish_locked (s : State) (r : Result) : (s.finish r).locked = s.locked := rfl
@[simp] theorem finish_budget (s : State) (r : Result) : (s.finish r).budget = s.budget := rfl
@[simp] theorem finish_res (s : State) (r : Result) : (s.finish r).res = r := rfl
@[simp] theorem finish_run (s : State) (r : Result) : (s.finish r).run = none := rfl
@[simp] theorem finish_outer (s : State) (r : Result) : (s.finish r).outer = s.outer := rfl
@[simp] theorem finish_rq (s : State) (r : Result) : (s.finish r).rq = s.rq := rfl
@[simp] theorem finish_aq (s : State) (r : Result) : (s.finish r).aq = s.aq := rfl
@[simp] theorem finish_tx (s : State) (r : Result) : (s.finish r).tx = s.tx := rfl
@[simp] theorem finish_wire (s : State) (r : Result) : (s.finish r).wire = s.wire := rfl
@[simp] theorem finish_record (s : State) (r : Result) : (s.finish r).record = s.record ++ [.result r] := rfl
@[simp] theorem finish_host (s : State) (r : Result) : (s.finish r).host = s.host := rfl
@[simp] theorem finish_bus (s : State) (r : Result) : (s.finish r).bus = s.bus := rfl
@[simp] theorem finish_busCycle (s : State) (r : Result) : (s.finish r).busCycle = s.busCycle := rfl

/-! ### logDiscard -/

@[simp] theorem logDiscard_params (s : State) (f : Frame) : (s.logDiscard f).params = s.params := rfl
@[simp] theorem logDiscard_configured (s : State) (f : Frame) : (s.logDiscard f).configured = s.configured := rfl
@[simp] theorem logDiscard_nodeId (s : State) (f : Frame) : (s.logDiscard f).nodeId = s.nodeId := rfl
@[simp] theorem logDiscard_pending (s : State) (f : Frame) : (s.logDiscard f).pending = s.pending := rfl
@[simp] theorem logDiscard_slaveIndex (s : State) (f : Frame) : (s.logDiscard f).slaveIndex = s.slaveIndex := rfl
@[simp] theorem logDiscard_slaveRecord (s : State) (f : Frame) : (s.logDiscard f).slaveRecord = s.slaveRecord := rfl
@[simp] theorem logDiscard_scanCursor (s : State) (f : Frame) : (s.logDiscard f).scanCursor = s.scanCursor := rfl
@[simp] theorem logDiscard_locked (s : State) (f : Frame) : (s.logDiscard f).locked = s.locked := rfl
@[simp] theorem logDiscard_budget (s : State) (f : Frame) : (s.logDiscard f).budget = s.budget := rfl
@[simp] theorem logDiscard_res (s : State) (f : Frame) : (s.logDiscard f).res = s.res := rfl
@[simp] theorem logDiscard_run (s : State) (f : Frame) : (s.logDiscard f).run = s.run := rfl
@[simp] theorem logDiscard_outer (s : State) (f : Frame) : (s.logDiscard f).outer = s.outer := rfl
@[simp] theorem logDiscard_rq (s : State) (f : Frame) : (s.logDiscard f).rq = s.rq := rfl
@[simp] theorem logDiscard_aq (s : State) (f : Frame) : (s.logDiscard f).aq = s.aq := rfl
@[simp] theorem logDiscard_tx (s : State) (f : Frame) : (s.logDiscard f).tx = s.tx := rfl
@[simp] theorem logDiscard_wire (s : State) (f : Frame) : (s.logDiscard f).wire = s.wire := rfl
@[simp] theorem logDiscard_record (s : State) (f : Frame) : (s.logDiscard f).record = s.record ++ [.discardedAck f] := rfl
@[simp] theorem logDiscard_host (s : State) (f : Frame) : (s.logDiscard f).host = s.host := rfl
@[simp] theorem logDiscard_bus (s : State) (f : Frame) : (s.logDiscard f).bus = s.bus := rfl
@[simp] theorem logDiscard_busCycle (s : State) (f : Frame) : (s.logDiscard f).busCycle = s.busCycle := rfl

/-! ### stopAt -/

@[simp] theorem stopAt_params (s : State) (p : Point) : (s.stopAt p).params = s.params := rfl
@[simp] theorem stopAt_configured (s : State) (p : Point) : (s.stopAt p).configured = s.configured := rfl
@[simp] theorem stopAt_nodeId (s : State) (p : Point) : (s.stopAt p).nodeId = s.nodeId := rfl
@[simp] theorem stopAt_pending (s : State) (p : Point) : (s.stopAt p).pending = s.pending := rfl
@[simp] theorem stopAt_slaveIndex (s : State) (p : Point) : (s.stopAt p).slaveIndex = s.slaveIndex := rfl
@[simp] theorem stopAt_slaveRecord (s : State) (p : Point) : (s.stopAt p).slaveRecord = s.slaveRecord := rfl
@[simp] theorem stopAt_scanCursor (s : State) (p : Point) : (s.stopAt p).scanCursor = s.scanCursor := rfl
@[simp] theorem stopAt_locked (s : State) (p : Point) : (s.stopAt p).locked = s.locked := rfl
@[simp] theorem stopAt_budget (s : State) (p : Point) : (s.stopAt p).budget = s.budget := rfl
@[simp] theorem stopAt_res (s : State) (p : Point) : (s.stopAt p).res = s.res := rfl
@[simp] theorem stopAt_run (s : State) (p : Point) : (s.stopAt p).run = some p := rfl
@[simp] theorem stopAt_outer (s : State) (p : Point) : (s.stopAt p).outer = s.outer := rfl
@[simp] theorem stopAt_rq (s : State) (p : Point) : (s.stopAt p).rq = s.rq := rfl
@[simp] theorem stopAt_aq (s : State) (p : Point) : (s.stopAt p).aq = s.aq := rfl
@[simp] theorem stopAt_tx (s : State) (p : Point) : (s.stopAt p).tx = s.tx := rfl
@[simp] theorem stopAt_wire (s : State) (p : Point) : (s.stopAt p).wire = s.wire := rfl
@[simp] theorem stopAt_record (s : State) (p : Point) : (s.stopAt p).record = s.record := rfl
@[simp] theorem stopAt_host (s : State) (p : Point) : (s.stopAt p).host = s.host := rfl
@[simp] theorem stopAt_bus (s : State) (p : Point) : (s.stopAt p).bus = s.bus := rfl
@[simp] theorem stopAt_busCycle (s : State) (p : Point) : (s.stopAt p).busCycle = s.busCycle := rfl

/-! ### refill -/

@[simp] theorem refill_params (s : State) : (s.refill).params = s.params := rfl
@[simp] theorem refill_configured (s : State) : (s.refill).configured = s.configured := rfl
@[simp] theorem refill_nodeId (s : State) : (s.refill).nodeId = s.nodeId := rfl
@[simp] theorem refill_pending (s : State) : (s.refill).pending = s.pending := rfl
@[simp] theorem refill_slaveIndex (s : State) : (s.refill).slaveIndex = s.slaveIndex := rfl
@[simp] theorem refill_slaveRecord (s : State) : (s.refill).slaveRecord = s.slaveRecord := rfl
@[simp] theorem refill_scanCursor (s : State) : (s.refill).scanCursor = s.scanCursor := rfl
@[simp] theorem refill_locked (s : State) : (s.refill).locked = s.locked := rfl
@[simp] theorem refill_budget (s : State) : (s.refill).budget = some s.params.ackPollBudget := rfl
@[simp] theorem refill_res (s : State) : (s.refill).res = s.res := rfl
@[simp] theorem refill_run (s : State) : (s.refill).run = s.run := rfl
@[simp] theorem refill_outer (s : State) : (s.refill).outer = s.outer := rfl
@[simp] theorem refill_rq (s : State) : (s.refill).rq = s.rq := rfl
@[simp] theorem refill_aq (s : State) : (s.refill).aq = s.aq := rfl
@[simp] theorem refill_tx (s : State) : (s.refill).tx = s.tx := rfl
@[simp] theorem refill_wire (s : State) : (s.refill).wire = s.wire := rfl
@[simp] theorem refill_record (s : State) : (s.refill).record = s.record := rfl
@[simp] theorem refill_host (s : State) : (s.refill).host = s.host := rfl
@[simp] theorem refill_bus (s : State) : (s.refill).bus = s.bus := rfl
@[simp] theorem refill_busCycle (s : State) : (s.refill).busCycle = s.busCycle := rfl

/-! ### setIndex -/

@[simp] theorem setIndex_params (s : State) (c : BitVec 7) (e : IndexEntry) : (s.setIndex c e).params = s.params := rfl
@[simp] theorem setIndex_configured (s : State) (c : BitVec 7) (e : IndexEntry) : (s.setIndex c e).configured = s.configured := rfl
@[simp] theorem setIndex_nodeId (s : State) (c : BitVec 7) (e : IndexEntry) : (s.setIndex c e).nodeId = s.nodeId := rfl
@[simp] theorem setIndex_pending (s : State) (c : BitVec 7) (e : IndexEntry) : (s.setIndex c e).pending = s.pending := rfl
@[simp] theorem setIndex_slaveIndex (s : State) (c : BitVec 7) (e : IndexEntry) : (s.setIndex c e).slaveIndex = s.slaveIndex.set (c.toNat - s.params.scanFirst.toNat) e := rfl
@[simp] theorem setIndex_slaveRecord (s : State) (c : BitVec 7) (e : IndexEntry) : (s.setIndex c e).slaveRecord = s.slaveRecord := rfl
@[simp] theorem setIndex_scanCursor (s : State) (c : BitVec 7) (e : IndexEntry) : (s.setIndex c e).scanCursor = s.scanCursor := rfl
@[simp] theorem setIndex_locked (s : State) (c : BitVec 7) (e : IndexEntry) : (s.setIndex c e).locked = s.locked := rfl
@[simp] theorem setIndex_budget (s : State) (c : BitVec 7) (e : IndexEntry) : (s.setIndex c e).budget = s.budget := rfl
@[simp] theorem setIndex_res (s : State) (c : BitVec 7) (e : IndexEntry) : (s.setIndex c e).res = s.res := rfl
@[simp] theorem setIndex_run (s : State) (c : BitVec 7) (e : IndexEntry) : (s.setIndex c e).run = s.run := rfl
@[simp] theorem setIndex_outer (s : State) (c : BitVec 7) (e : IndexEntry) : (s.setIndex c e).outer = s.outer := rfl
@[simp] theorem setIndex_rq (s : State) (c : BitVec 7) (e : IndexEntry) : (s.setIndex c e).rq = s.rq := rfl
@[simp] theorem setIndex_aq (s : State) (c : BitVec 7) (e : IndexEntry) : (s.setIndex c e).aq = s.aq := rfl
@[simp] theorem setIndex_tx (s : State) (c : BitVec 7) (e : IndexEntry) : (s.setIndex c e).tx = s.tx := rfl
@[simp] theorem setIndex_wire (s : State) (c : BitVec 7) (e : IndexEntry) : (s.setIndex c e).wire = s.wire := rfl
@[simp] theorem setIndex_record (s : State) (c : BitVec 7) (e : IndexEntry) : (s.setIndex c e).record = s.record := rfl
@[simp] theorem setIndex_host (s : State) (c : BitVec 7) (e : IndexEntry) : (s.setIndex c e).host = s.host := rfl
@[simp] theorem setIndex_bus (s : State) (c : BitVec 7) (e : IndexEntry) : (s.setIndex c e).bus = s.bus := rfl
@[simp] theorem setIndex_busCycle (s : State) (c : BitVec 7) (e : IndexEntry) : (s.setIndex c e).busCycle = s.busCycle := rfl

/-! ### advanceCursor -/

@[simp] theorem advanceCursor_params (s : State) : (s.advanceCursor).params = s.params := rfl
@[simp] theorem advanceCursor_configured (s : State) : (s.advanceCursor).configured = s.configured := rfl
@[simp] theorem advanceCursor_nodeId (s : State) : (s.advanceCursor).nodeId = s.nodeId := rfl
@[simp] theorem advanceCursor_pending (s : State) : (s.advanceCursor).pending = s.pending := rfl
@[simp] theorem advanceCursor_slaveIndex (s : State) : (s.advanceCursor).slaveIndex = s.slaveIndex := rfl
@[simp] theorem advanceCursor_slaveRecord (s : State) : (s.advanceCursor).slaveRecord = s.slaveRecord := rfl
@[simp] theorem advanceCursor_scanCursor (s : State) : (s.advanceCursor).scanCursor = candidateSucc s.params s.scanCandidate := rfl
@[simp] theorem advanceCursor_locked (s : State) : (s.advanceCursor).locked = s.locked := rfl
@[simp] theorem advanceCursor_budget (s : State) : (s.advanceCursor).budget = s.budget := rfl
@[simp] theorem advanceCursor_res (s : State) : (s.advanceCursor).res = s.res := rfl
@[simp] theorem advanceCursor_run (s : State) : (s.advanceCursor).run = s.run := rfl
@[simp] theorem advanceCursor_outer (s : State) : (s.advanceCursor).outer = s.outer := rfl
@[simp] theorem advanceCursor_rq (s : State) : (s.advanceCursor).rq = s.rq := rfl
@[simp] theorem advanceCursor_aq (s : State) : (s.advanceCursor).aq = s.aq := rfl
@[simp] theorem advanceCursor_tx (s : State) : (s.advanceCursor).tx = s.tx := rfl
@[simp] theorem advanceCursor_wire (s : State) : (s.advanceCursor).wire = s.wire := rfl
@[simp] theorem advanceCursor_record (s : State) : (s.advanceCursor).record = s.record := rfl
@[simp] theorem advanceCursor_host (s : State) : (s.advanceCursor).host = s.host := rfl
@[simp] theorem advanceCursor_bus (s : State) : (s.advanceCursor).bus = s.bus := rfl
@[simp] theorem advanceCursor_busCycle (s : State) : (s.advanceCursor).busCycle = s.busCycle := rfl

/-! ### beginDrain -/

@[simp] theorem beginDrain_params (s : State) : (s.beginDrain).params = s.params := rfl
@[simp] theorem beginDrain_configured (s : State) : (s.beginDrain).configured = s.configured := rfl
@[simp] theorem beginDrain_nodeId (s : State) : (s.beginDrain).nodeId = s.nodeId := rfl
@[simp] theorem beginDrain_pending (s : State) : (s.beginDrain).pending = s.pending := rfl
@[simp] theorem beginDrain_slaveIndex (s : State) : (s.beginDrain).slaveIndex = s.slaveIndex := rfl
@[simp] theorem beginDrain_slaveRecord (s : State) : (s.beginDrain).slaveRecord = s.slaveRecord := rfl
@[simp] theorem beginDrain_scanCursor (s : State) : (s.beginDrain).scanCursor = s.scanCursor := rfl
@[simp] theorem beginDrain_locked (s : State) : (s.beginDrain).locked = none := rfl
@[simp] theorem beginDrain_budget (s : State) : (s.beginDrain).budget = s.budget := rfl
@[simp] theorem beginDrain_res (s : State) : (s.beginDrain).res = s.res := rfl
@[simp] theorem beginDrain_run (s : State) : (s.beginDrain).run = some .drain := rfl
@[simp] theorem beginDrain_outer (s : State) : (s.beginDrain).outer = s.outer := rfl
@[simp] theorem beginDrain_rq (s : State) : (s.beginDrain).rq = s.rq := rfl
@[simp] theorem beginDrain_aq (s : State) : (s.beginDrain).aq = s.aq := rfl
@[simp] theorem beginDrain_tx (s : State) : (s.beginDrain).tx = s.tx := rfl
@[simp] theorem beginDrain_wire (s : State) : (s.beginDrain).wire = s.wire := rfl
@[simp] theorem beginDrain_record (s : State) : (s.beginDrain).record = s.record := rfl
@[simp] theorem beginDrain_host (s : State) : (s.beginDrain).host = s.host := rfl
@[simp] theorem beginDrain_bus (s : State) : (s.beginDrain).bus = s.bus := rfl
@[simp] theorem beginDrain_busCycle (s : State) : (s.beginDrain).busCycle = s.busCycle := rfl

/-! ### enterCall -/

@[simp] theorem enterCall_params (s : State) (ev : CallEvent) (m : Option (BitVec 7)) : (s.enterCall ev m).params = s.params := rfl
@[simp] theorem enterCall_configured (s : State) (ev : CallEvent) (m : Option (BitVec 7)) : (s.enterCall ev m).configured = s.configured := rfl
@[simp] theorem enterCall_nodeId (s : State) (ev : CallEvent) (m : Option (BitVec 7)) : (s.enterCall ev m).nodeId = s.nodeId := rfl
@[simp] theorem enterCall_pending (s : State) (ev : CallEvent) (m : Option (BitVec 7)) : (s.enterCall ev m).pending = s.pending := rfl
@[simp] theorem enterCall_slaveIndex (s : State) (ev : CallEvent) (m : Option (BitVec 7)) : (s.enterCall ev m).slaveIndex = s.slaveIndex := rfl
@[simp] theorem enterCall_slaveRecord (s : State) (ev : CallEvent) (m : Option (BitVec 7)) : (s.enterCall ev m).slaveRecord = s.slaveRecord := rfl
@[simp] theorem enterCall_scanCursor (s : State) (ev : CallEvent) (m : Option (BitVec 7)) : (s.enterCall ev m).scanCursor = s.scanCursor := rfl
@[simp] theorem enterCall_locked (s : State) (ev : CallEvent) (m : Option (BitVec 7)) : (s.enterCall ev m).locked = s.locked := rfl
@[simp] theorem enterCall_budget (s : State) (ev : CallEvent) (m : Option (BitVec 7)) : (s.enterCall ev m).budget = s.budget := rfl
@[simp] theorem enterCall_res (s : State) (ev : CallEvent) (m : Option (BitVec 7)) : (s.enterCall ev m).res = s.res := rfl
@[simp] theorem enterCall_run (s : State) (ev : CallEvent) (m : Option (BitVec 7)) : (s.enterCall ev m).run = none := rfl
@[simp] theorem enterCall_outer (s : State) (ev : CallEvent) (m : Option (BitVec 7)) : (s.enterCall ev m).outer = some ⟨ev, m⟩ := rfl
@[simp] theorem enterCall_rq (s : State) (ev : CallEvent) (m : Option (BitVec 7)) : (s.enterCall ev m).rq = s.rq := rfl
@[simp] theorem enterCall_aq (s : State) (ev : CallEvent) (m : Option (BitVec 7)) : (s.enterCall ev m).aq = s.aq := rfl
@[simp] theorem enterCall_tx (s : State) (ev : CallEvent) (m : Option (BitVec 7)) : (s.enterCall ev m).tx = s.tx := rfl
@[simp] theorem enterCall_wire (s : State) (ev : CallEvent) (m : Option (BitVec 7)) : (s.enterCall ev m).wire = s.wire := rfl
@[simp] theorem enterCall_record (s : State) (ev : CallEvent) (m : Option (BitVec 7)) : (s.enterCall ev m).record = s.record ++ [.call ev] := rfl
@[simp] theorem enterCall_host (s : State) (ev : CallEvent) (m : Option (BitVec 7)) : (s.enterCall ev m).host = s.host := rfl
@[simp] theorem enterCall_bus (s : State) (ev : CallEvent) (m : Option (BitVec 7)) : (s.enterCall ev m).bus = s.bus := rfl
@[simp] theorem enterCall_busCycle (s : State) (ev : CallEvent) (m : Option (BitVec 7)) : (s.enterCall ev m).busCycle = s.busCycle := rfl

/-! ### resetCore -/

@[simp] theorem resetCore_params (s : State) : (s.resetCore).params = s.params := rfl
@[simp] theorem resetCore_configured (s : State) : (s.resetCore).configured = false := rfl
@[simp] theorem resetCore_nodeId (s : State) : (s.resetCore).nodeId = 0 := rfl
@[simp] theorem resetCore_pending (s : State) : (s.resetCore).pending = Pending.none := rfl
@[simp] theorem resetCore_slaveIndex (s : State) : (s.resetCore).slaveIndex = initialIndex s.params := rfl
@[simp] theorem resetCore_slaveRecord (s : State) : (s.resetCore).slaveRecord = initialRecords s.params := rfl
@[simp] theorem resetCore_scanCursor (s : State) : (s.resetCore).scanCursor = s.params.scanFirst := rfl
@[simp] theorem resetCore_locked (s : State) : (s.resetCore).locked = s.locked := rfl
@[simp] theorem resetCore_budget (s : State) : (s.resetCore).budget = s.budget := rfl
@[simp] theorem resetCore_res (s : State) : (s.resetCore).res = Result.zero := rfl
@[simp] theorem resetCore_run (s : State) : (s.resetCore).run = s.run := rfl
@[simp] theorem resetCore_outer (s : State) : (s.resetCore).outer = s.outer := rfl
@[simp] theorem resetCore_rq (s : State) : (s.resetCore).rq = s.rq := rfl
@[simp] theorem resetCore_aq (s : State) : (s.resetCore).aq = s.aq := rfl
@[simp] theorem resetCore_tx (s : State) : (s.resetCore).tx = s.tx := rfl
@[simp] theorem resetCore_wire (s : State) : (s.resetCore).wire = s.wire := rfl
@[simp] theorem resetCore_record (s : State) : (s.resetCore).record = s.record := rfl
@[simp] theorem resetCore_host (s : State) : (s.resetCore).host = s.host := rfl
@[simp] theorem resetCore_bus (s : State) : (s.resetCore).bus = s.bus := rfl
@[simp] theorem resetCore_busCycle (s : State) : (s.resetCore).busCycle = s.busCycle := rfl

end Sys2Proof.Machine
end

