-- ==== Sys2Proof/Laws/Ops.lean ====
section
/-! SUPPORT. What each shared operation can do, said once. -/

namespace Sys2Proof.Machine

/-! ### Transmit -/

/-- No slot takes a frame exactly when no slot is free (40_codec.md R108). -/
theorem placeFrame_eq_none_iff (f : Frame) (tx : List Slot) :
    placeFrame f tx = none ↔ Slot.free ∉ tx := by
  induction tx with
  | nil => simp [placeFrame]
  | cons a rest ih => cases a <;> simp [placeFrame, ih]

/-- A frame goes into the lowest-numbered free slot (40_codec.md R108). -/
theorem placeFrame_eq_some {f : Frame} {tx tx' : List Slot} (h : placeFrame f tx = some tx') :
    ∃ k, tx[k]? = some .free ∧ (∀ j < k, tx[j]? ≠ some .free) ∧ tx' = tx.set k (.busy f) := by
  induction tx generalizing tx' with
  | nil => simp [placeFrame] at h
  | cons a rest ih =>
    cases a with
    | free =>
      simp only [placeFrame, Option.some.injEq] at h
      exact ⟨0, by simp, by simp, by simp [← h]⟩
    | busy g =>
      simp only [placeFrame, Option.map_eq_some_iff] at h
      obtain ⟨r, hr, rfl⟩ := h
      obtain ⟨k, hk, hlt, rfl⟩ := ih hr
      refine ⟨k + 1, by simpa using hk, ?_, by simp⟩
      intro j hj
      cases j with
      | zero => simp
      | succ j => simpa using hlt j (by omega)

theorem placeFrame_length {f : Frame} {tx tx' : List Slot} (h : placeFrame f tx = some tx') :
    tx'.length = tx.length := by
  obtain ⟨k, -, -, rfl⟩ := placeFrame_eq_some h
  simp

/-- What `Transmit` changes when a slot is free. -/
theorem transmit_eq_some {s t : State} {f : Frame} (h : s.transmit f = some t) :
    ∃ tx, placeFrame f s.tx = some tx ∧ t = { s with tx := tx, record := s.record ++ [.transmit f] } := by
  unfold State.transmit at h
  split at h
  · exact ⟨_, ‹_›, by simpa using h.symm⟩
  · cases h

theorem transmit_eq_none_iff (s : State) (f : Frame) : s.transmit f = none ↔ Slot.free ∉ s.tx := by
  rw [← placeFrame_eq_none_iff f]
  unfold State.transmit
  split <;> simp_all

/-- A command at `Transmit` goes on after the frame is placed, or holds. -/
theorem attempt_cases (s : State) (f : Frame) (p : Point) (k : State → State) :
    (∃ tx, placeFrame f s.tx = some tx ∧
      s.attempt f p k = k { s with tx := tx, record := s.record ++ [.transmit f] }) ∨
    (Slot.free ∉ s.tx ∧ s.attempt f p k = s.stopAt p) := by
  unfold State.attempt
  split
  · obtain ⟨tx, h, rfl⟩ := transmit_eq_some ‹_›
    exact .inl ⟨tx, h, rfl⟩
  · exact .inr ⟨(transmit_eq_none_iff s f).1 ‹_›, rfl⟩

/-! ### Receive queues -/

/-- A queue never grows beyond its depth (40_codec.md R106). -/
theorem enqueue_length_le {p : Params} (hp : 1 ≤ p.rxqDepth) {q : List Frame} (hq : q.length ≤ p.rxqDepth)
    (f : Frame) : (enqueue p q f).length ≤ p.rxqDepth := by
  unfold enqueue
  split
  · simp only [List.length_append, List.length_singleton]
    omega
  · split
    · exact hq
    · simp only [List.length_append, List.length_tail, List.length_singleton]
      omega

/-- A queue holds nothing but what it held and the new frame. -/
theorem mem_enqueue {p : Params} {q : List Frame} {f g : Frame} (h : g ∈ enqueue p q f) : g ∈ q ∨ g = f := by
  unfold enqueue at h
  split at h
  · simpa using h
  · split at h
    · exact .inl h
    · rcases List.mem_append.1 h with h | h
      · exact .inl (List.mem_of_mem_tail h)
      · exact .inr (by simpa using h)

/-- When a filter lets a frame into RQ (40_codec.md R104). -/
theorem filterMatch_eq_toRq {s : State} {f : Frame} (h : s.filterMatch f = .toRq) :
    s.configured = true ∧ f.ide = true ∧ f.rtr = false ∧ (unpack f.id).node = s.nodeId ∧
      (unpack f.id).ack = 0 := by
  unfold State.filterMatch at h
  grind

/-- When a filter lets a frame into AQ (40_codec.md R104). -/
theorem filterMatch_eq_toAq {s : State} {f : Frame} (h : s.filterMatch f = .toAq) :
    s.configured = true ∧ f.ide = true ∧ f.rtr = false ∧ (unpack f.id).node = s.nodeId ∧
      (unpack f.id).ack = 1 := by
  unfold State.filterMatch at h
  have key : ∀ a : BitVec 1, a ≠ 0 → a = 1 := by decide
  have := key (unpack f.id).ack
  grind

/-- What the delivery of a frame changes (40_codec.md R105). -/
theorem deliver_cases (s : State) (f : Frame) :
    (s.filterMatch f = .toRq ∧ s.deliver f = { s with rq := enqueue s.params s.rq (receivedFrame f) }) ∨
    (s.filterMatch f = .toAq ∧ s.deliver f = { s with aq := enqueue s.params s.aq (receivedFrame f) }) ∨
    (s.filterMatch f = .drop ∧ s.deliver f = s) := by
  unfold State.deliver
  cases s.filterMatch f <;> simp

/-- What the BUS changes when it takes a frame to the wire (40_codec.md R109). -/
theorem sendSlot_cases (s : State) (k : Nat) :
    (∃ f, s.tx[k]? = some (.busy f) ∧
      s.sendSlot k = { s with tx := s.tx.set k .free, wire := s.wire ++ [f] }) ∨
    ((∀ f, s.tx[k]? ≠ some (.busy f)) ∧ s.sendSlot k = s) := by
  unfold State.sendSlot
  split <;> simp_all

/-! ### The checks of the sending commands -/

theorem sendReqFrame_cases (s : State) (slave : BitVec 7) (tos : BitVec 2) (control : BitVec 16)
    (dlc : BitVec 4) (msg : Message) :
    (s.configured = false ∧ s.sendReqFrame slave tos control dlc msg = .error .notConfigured) ∨
    (s.configured = true ∧ isMasterId s.nodeId = false ∧
      s.sendReqFrame slave tos control dlc msg = .error .notMaster) ∨
    (s.configured = true ∧ isMasterId s.nodeId = true ∧ 8 < dlc.toNat ∧
      s.sendReqFrame slave tos control dlc msg = .error .invalidLength) ∨
    (s.configured = true ∧ isMasterId s.nodeId = true ∧ dlc.toNat ≤ 8 ∧
      s.sendReqFrame slave tos control dlc msg = .ok (s.requestFrame slave tos control dlc msg)) := by
  unfold State.sendReqFrame
  split
  · exact .inl ⟨‹_›, rfl⟩
  · split
    · exact .inr (.inl ⟨by simpa using ‹¬s.configured = false›, ‹_›, rfl⟩)
    · have hc : s.configured = true := by simpa using ‹¬s.configured = false›
      have hm : isMasterId s.nodeId = true := by simpa using ‹¬isMasterId s.nodeId = false›
      split
      · exact .inr (.inr (.inl ⟨hc, hm, ‹_›, rfl⟩))
      · exact .inr (.inr (.inr ⟨hc, hm, by omega, rfl⟩))

theorem resendFrame_cases (s : State) (slave : BitVec 7) :
    (s.configured = false ∧ s.resendFrame slave = .error .notConfigured) ∨
    (s.configured = true ∧ isMasterId s.nodeId = false ∧ s.resendFrame slave = .error .notMaster) ∨
    (s.configured = true ∧ isMasterId s.nodeId = true ∧
      (s.pending.valid = false ∨ s.pending.slaveId ≠ slave) ∧
      s.resendFrame slave = .error .sequenceError) ∨
    (s.configured = true ∧ isMasterId s.nodeId = true ∧ s.pending.valid = true ∧
      s.pending.slaveId = slave ∧
      s.resendFrame slave = .ok (buildFrame s.pending.fid s.pending.msg s.pending.dlc)) := by
  unfold State.resendFrame
  split
  · exact .inl ⟨‹_›, rfl⟩
  · split
    · exact .inr (.inl ⟨by simpa using ‹¬s.configured = false›, ‹_›, rfl⟩)
    · have hc : s.configured = true := by simpa using ‹¬s.configured = false›
      have hm : isMasterId s.nodeId = true := by simpa using ‹¬isMasterId s.nodeId = false›
      split
      · exact .inr (.inr (.inl ⟨hc, hm, ‹_›, rfl⟩))
      · exact .inr (.inr (.inr ⟨hc, hm, by simp_all, by simp_all, rfl⟩))

theorem sendAckFrame_cases (s : State) (master : BitVec 7) (tos : BitVec 2) (dlc : BitVec 4)
    (msg : Message) :
    (s.configured = false ∧ s.sendAckFrame master tos dlc msg = .error .notConfigured) ∨
    (s.configured = true ∧ isMasterId master = false ∧
      s.sendAckFrame master tos dlc msg = .error .invalidTarget) ∨
    (s.configured = true ∧ isMasterId master = true ∧ 8 < dlc.toNat ∧
      s.sendAckFrame master tos dlc msg = .error .invalidLength) ∨
    (s.configured = true ∧ isMasterId master = true ∧ dlc.toNat ≤ 8 ∧
      s.sendAckFrame master tos dlc msg = .ok (buildFrame (s.ackId master tos) msg dlc)) := by
  unfold State.sendAckFrame
  split
  · exact .inl ⟨‹_›, rfl⟩
  · split
    · exact .inr (.inl ⟨by simpa using ‹¬s.configured = false›, ‹_›, rfl⟩)
    · have hc : s.configured = true := by simpa using ‹¬s.configured = false›
      have hm : isMasterId master = true := by simpa using ‹¬isMasterId master = false›
      split
      · exact .inr (.inr (.inl ⟨hc, hm, ‹_›, rfl⟩))
      · exact .inr (.inr (.inr ⟨hc, hm, by omega, rfl⟩))

/-! ### Polling for an acknowledge -/

/-- The three answers to a dequeued acknowledge (42_master_request.md R152). -/
theorem receiveAck_cases (s : State) (slave : BitVec 7) (f : Frame) :
    (fromSlave (unpack f.id) slave = false ∧
      s.receiveAck slave f = (Result.ofStatus .pending, s.logDiscard f)) ∨
    (fromSlave (unpack f.id) slave = true ∧ (unpack f.id).tos = tosRetry ∧
      s.receiveAck slave f = (Result.ofStatus .retryRequested, s)) ∨
    (fromSlave (unpack f.id) slave = true ∧ (unpack f.id).tos ≠ tosRetry ∧
      s.receiveAck slave f =
        (Result.ofAck (receivedPayload f.dlc f.data) f.dlc (unpack f.id).tos, s)) := by
  unfold State.receiveAck
  split
  · exact .inl ⟨‹_›, rfl⟩
  · have hf : fromSlave (unpack f.id) slave = true := by
      simpa using ‹¬fromSlave (unpack f.id) slave = false›
    split
    · exact .inr (.inl ⟨hf, ‹_›, rfl⟩)
    · exact .inr (.inr ⟨hf, ‹_›, rfl⟩)

/-- Every answer of a poll (42_master_request.md R152): a queue cut short by at most its head, the
discard logged. -/
theorem pollAck_cases (s : State) (slave : BitVec 7) :
    (s.aq = [] ∧ s.pollAck slave = (Result.ofStatus .pending, s)) ∨
    (∃ f q, s.aq = f :: q ∧ s.pollAck slave = { s with aq := q }.receiveAck slave f) := by
  unfold State.pollAck
  split
  · exact .inl ⟨‹_›, rfl⟩
  · exact .inr ⟨_, _, ‹_›, rfl⟩

/-- The statuses that a poll can answer. -/
theorem receiveAck_status (s : State) (slave : BitVec 7) (f : Frame) :
    (s.receiveAck slave f).1.status = .pending ∨ (s.receiveAck slave f).1.status = .retryRequested ∨
      (s.receiveAck slave f).1.status = .success := by
  rcases receiveAck_cases s slave f with ⟨-, h⟩ | ⟨-, -, h⟩ | ⟨-, -, h⟩ <;>
    simp [h, Result.ofStatus, Result.ofAck]

/-- Every way WAIT_ACK's loop goes on after a poll that answered `r` (42_master_request.md R154). -/
theorem afterPoll_cases (s : State) (slave : BitVec 7) (r : Result) :
    (r.status = .success ∧ s.afterPoll slave r = (.done r, { s with budget := none })) ∨
    (∃ e, r.status = .retryRequested ∧ s.resendFrame slave = .error e ∧
      s.afterPoll slave r = (.done (Result.ofStatus e), { s with budget := none })) ∨
    (∃ f, r.status = .retryRequested ∧ s.resendFrame slave = .ok f ∧
      s.afterPoll slave r = (.resend f, s)) ∨
    (r.status ≠ .success ∧ r.status ≠ .retryRequested ∧ s.budget.getD 0 ≤ 1 ∧
      s.afterPoll slave r = (.done (Result.ofStatus .timeout), { s with budget := none })) ∨
    (r.status ≠ .success ∧ r.status ≠ .retryRequested ∧ 1 < s.budget.getD 0 ∧
      s.afterPoll slave r = (.poll, { s with budget := some (s.budget.getD 0 - 1) })) := by
  unfold State.afterPoll
  cases hr : r.status
  case success => exact .inl ⟨rfl, rfl⟩
  case retryRequested =>
    cases hf : s.resendFrame slave with
    | ok f => exact .inr (.inr (.inl ⟨f, rfl, rfl, rfl⟩))
    | error e => exact .inr (.inl ⟨e, rfl, rfl, rfl⟩)
  all_goals
    by_cases hb : s.budget.getD 0 - 1 = 0
    · exact .inr (.inr (.inr (.inl ⟨by simp, by simp, by omega, by simp [hb]⟩)))
    · exact .inr (.inr (.inr (.inr ⟨by simp, by simp, by omega, by simp [hb]⟩)))

/-! ### The scanner -/

/-- What a table entry that is Unresolved says about the scan (43_discovery.md R192). -/
theorem scanProbe_eq_some {s : State} {c : BitVec 7} {n : Nat} (h : s.scanProbe = some (c, n)) :
    c = s.scanCandidate ∧ c ≠ s.nodeId ∧ ∃ m, s.indexOf c = some (.unresolved m) ∧ n = m + 1 := by
  unfold State.scanProbe at h
  grind

/-- A free slot is found by least index, all slots before it are taken (43_discovery.md R194). -/
theorem firstInvalid_eq_some {rs : List SlaveRecord} {i : Nat} (h : firstInvalid rs = some i) :
    (∃ r, rs[i]? = some r ∧ r.valid = false) ∧ ∀ j < i, ∃ r, rs[j]? = some r ∧ r.valid = true := by
  induction rs generalizing i with
  | nil => simp [firstInvalid] at h
  | cons r rest ih =>
    simp only [firstInvalid] at h
    split at h
    · obtain ⟨k, hk, rfl⟩ := Option.map_eq_some_iff.1 h
      obtain ⟨hr, hlt⟩ := ih hk
      refine ⟨by simpa using hr, ?_⟩
      intro j hj
      cases j with
      | zero => exact ⟨r, by simp, ‹_›⟩
      | succ j => simpa using hlt j (by omega)
    · cases h
      exact ⟨⟨r, by simp, by simpa using ‹¬r.valid = true›⟩, by simp⟩

/-- There is no free slot when every record is valid. -/
theorem firstInvalid_eq_none {rs : List SlaveRecord} (h : firstInvalid rs = none) :
    ∀ r ∈ rs, r.valid = true := by
  induction rs with
  | nil => simp
  | cons r rest ih =>
    simp only [firstInvalid] at h
    split at h
    · simp only [Option.map_eq_none_iff] at h
      simpa [‹r.valid = true›] using ih h
    · cases h

/-- ALLOCATE takes the first free slot, or marks the candidate Absent (43_discovery.md R194). -/
theorem allocate_cases (s : State) (c : BitVec 7) (pong : Message) :
    (∃ i, firstInvalid s.slaveRecord = some i ∧ s.allocate c pong =
      { s with slaveRecord := s.slaveRecord.set i ⟨true, pong⟩ }.setIndex c (.found i)) ∨
    (firstInvalid s.slaveRecord = none ∧ s.allocate c pong = s.setIndex c .absent) := by
  unfold State.allocate
  split
  · exact .inl ⟨_, ‹_›, rfl⟩
  · exact .inr ⟨‹_›, rfl⟩

/-! ### HANDLER's transfers of control -/

/-- REPLY to a master ID transmits while configured, and otherwise goes on (44_dispatcher.md R244). -/
theorem enterReply_cases (s : State) (master : BitVec 7) (tos : BitVec 2) :
    (s.configured = true ∧ isMasterId master = true ∧
      s.enterReply master tos = s.stopAt (.reply (buildFrame (s.ackId master tos) Message.zero 0))) ∨
    ((s.configured = false ∨ isMasterId master = false) ∧ s.enterReply master tos = s.stopAt .drain) := by
  unfold State.enterReply
  rcases sendAckFrame_cases s master tos 0 Message.zero with ⟨h, e⟩ | ⟨h, h', e⟩ | ⟨-, -, h, -⟩ | ⟨h, h', -, e⟩
  · exact .inr ⟨.inl h, by rw [e]⟩
  · exact .inr ⟨.inr h', by rw [e]⟩
  · simp at h
  · exact .inl ⟨h, h', by rw [e]⟩

/-- The HOST's return resumes HANDLER, or does nothing (60_exceptions.md R287). -/
theorem returnFromCall_cases (s : State) :
    (s.outer = none ∧ s.returnFromCall = s) ∨
    (∃ ev master, s.outer = some ⟨ev, some master⟩ ∧
      s.returnFromCall = { s with outer := none }.enterReply master tosOk) ∨
    (∃ ev, s.outer = some ⟨ev, none⟩ ∧ s.returnFromCall = { s with outer := none }.stopAt .drain) := by
  unfold State.returnFromCall
  split
  · exact .inl ⟨‹_›, rfl⟩
  · rename_i h heq
    obtain ⟨ev, m⟩ := h
    cases m with
    | none => exact .inr (.inr ⟨ev, heq, rfl⟩)
    | some m => exact .inr (.inl ⟨ev, m, heq, rfl⟩)

/-- A command's meaning runs only when no command is running (00_scope.md R8). -/
theorem issue_eq_next {s t : State} {k : State → Out} (h : s.issue k = .next t) :
    s.run = none ∧ k s = .next t := by
  unfold State.issue at h
  split at h
  · cases h
  · exact ⟨‹_›, h⟩

theorem issue_of_idle {s : State} (h : s.run = none) (k : State → Out) : s.issue k = k s := by
  simp [State.issue, h]

end Sys2Proof.Machine
end

