-- ==== Sys2Proof/Laws/Step.lean ====
section
/-! SUPPORT. What a step can do: the dispatcher's and the acknowledge engine's shared meanings, the
turn, the fetch, and the cases of a step. -/

namespace Sys2Proof.Machine

/-- The lock arbiter: a request runs only at DRAIN, and is dispatched or rejected (44_dispatcher.md
R221, R222). -/
theorem arbitrate_eq_next {s t : State} {ms : BitVec 3} {k : State → State}
    (h : s.arbitrate ms k = .next t) :
    s.run = some .drain ∧
    ((∃ m, s.locked = some m ∧ ms ≠ m ∧ t = s.enterReply (masterOf ms) tosRetry) ∨
     ((∀ m, s.locked = some m → ms = m) ∧ t = k s)) := by
  unfold State.arbitrate at h
  split at h
  · refine ⟨‹_›, ?_⟩
    split at h
    · rename_i m hm
      split at h
      · exact .inr ⟨by simp_all, by simpa using h.symm⟩
      · exact .inl ⟨m, hm, ‹_›, by simpa using h.symm⟩
    · exact .inr ⟨by simp_all, by simpa using h.symm⟩
  · cases h

/-- At DRAIN the arbiter dispatches when the node is unlocked or the sender holds the lock. -/
theorem arbitrate_pass {s : State} {ms : BitVec 3} (k : State → State) (hr : s.run = some .drain)
    (hl : ∀ m, s.locked = some m → ms = m) : s.arbitrate ms k = .next (k s) := by
  unfold State.arbitrate
  rw [hr]
  cases h : s.locked with
  | none => rfl
  | some m => simp [hl m h]

/-- At DRAIN the arbiter answers ACK_RETRY when another master holds the lock (44_dispatcher.md R222). -/
theorem arbitrate_reject {s : State} {ms m : BitVec 3} (k : State → State) (hr : s.run = some .drain)
    (hl : s.locked = some m) (hm : ms ≠ m) :
    s.arbitrate ms k = .next (s.enterReply (masterOf ms) tosRetry) := by
  simp [State.arbitrate, hr, hl, hm]

/-- An acknowledge runs only at the poll of WAIT_ACK or of the probe. -/
theorem takeAck_eq_next {s t : State} {f : Frame} (h : s.takeAck f = .next t) :
    (∃ slave, s.run = some (.waitAck slave) ∧ t = State.waitAckWith slave (s.receiveAck slave f)) ∨
    (∃ c n, s.run = some (.probeWait c n) ∧ t = State.probeWith c n (s.receiveAck c f)) := by
  unfold State.takeAck at h
  split at h
  · exact .inl ⟨_, ‹_›, by simpa using h.symm⟩
  · exact .inr ⟨_, _, ‹_›, by simpa using h.symm⟩
  · cases h

/-- Whose turn it is (00_scope.md R7, R8). -/
theorem turn_cases (s : State) :
    (s.bus = [] ∧ s.turn = .thread { s with bus := s.busCycle }) ∨
    (∃ rest, s.bus = .yield :: rest ∧ s.turn = .thread { s with bus := rest }) ∨
    (∃ f rest, s.bus = .deliver f :: rest ∧ s.turn = .busStep ({ s with bus := rest }.deliver f)) ∨
    (∃ k rest, s.bus = .sent k :: rest ∧ s.turn = .busStep ({ s with bus := rest }.sendSlot k)) := by
  unfold State.turn
  split
  · exact .inl ⟨‹_›, rfl⟩
  · exact .inr (.inl ⟨_, ‹_›, rfl⟩)
  · exact .inr (.inr (.inl ⟨_, _, ‹_›, rfl⟩))
  · exact .inr (.inr (.inr ⟨_, _, ‹_›, rfl⟩))

/-- What a fetch takes (00_scope.md R8, 30_encoding.md R78). -/
theorem fetch_eq_some {s u : State} {w : Words} (h : s.fetch = some (w, u)) :
    (∃ cmd data rest, s.run = none ∧ s.host = .command cmd data :: rest ∧ w = .command cmd data ∧
      u = { s with host := rest }) ∨
    (∃ f q, s.run = some .drain ∧ s.rq = f :: q ∧ w = .frame f ∧ u = { s with rq := q }) ∨
    (∃ f q, ((∃ slave, s.run = some (.waitAck slave)) ∨ (∃ c n, s.run = some (.probeWait c n))) ∧
      s.aq = f :: q ∧ w = .frame f ∧ u = { s with aq := q }) := by
  unfold State.fetch at h
  split at h
  · split at h
    · simp only [Option.some.injEq, Prod.mk.injEq] at h
      exact .inl ⟨_, _, _, ‹_›, ‹_›, h.1.symm, h.2.symm⟩
    · cases h
  · split at h
    · simp only [Option.some.injEq, Prod.mk.injEq] at h
      exact .inr (.inl ⟨_, _, ‹_›, ‹_›, h.1.symm, h.2.symm⟩)
    · cases h
  · split at h
    · simp only [Option.some.injEq, Prod.mk.injEq] at h
      exact .inr (.inr ⟨_, _, .inl ⟨_, ‹_›⟩, ‹_›, h.1.symm, h.2.symm⟩)
    · cases h
  · split at h
    · simp only [Option.some.injEq, Prod.mk.injEq] at h
      exact .inr (.inr ⟨_, _, .inr ⟨_, _, ‹_›⟩, ‹_›, h.1.symm, h.2.symm⟩)
    · cases h
  · cases h

/-- The step when nothing is fetched (log 4). -/
theorem proceed_cases (s : State) :
    (∃ p, s.run = some p ∧ s.proceed = s.resume p) ∨
    (∃ v rest, s.run = none ∧ s.host = .ret v :: rest ∧
      s.proceed = { s with host := rest }.returnFromCall) ∨
    (s.run = none ∧ (∀ v rest, s.host ≠ .ret v :: rest) ∧ s.proceed = s) := by
  unfold State.proceed
  split
  · exact .inl ⟨_, ‹_›, rfl⟩
  · split
    · exact .inr (.inl ⟨_, _, ‹_›, ‹_›, rfl⟩)
    · exact .inr (.inr ⟨‹_›, by simp_all, rfl⟩)

/-- Everything a step that answers a next state can do. -/
theorem step_eq_next {s t : State} (h : step s = .next t) :
    (∃ f rest, s.bus = .deliver f :: rest ∧ t = { s with bus := rest }.deliver f) ∨
    (∃ k rest, s.bus = .sent k :: rest ∧ t = { s with bus := rest }.sendSlot k) ∨
    (∃ v, s.turn = .thread v ∧ (∃ rest, (s.bus = [] ∧ rest = s.busCycle ∨ s.bus = .yield :: rest) ∧ v = { s with bus := rest }) ∧
      ((v.fetch = none ∧ t = v.proceed) ∨
       (∃ w u i, v.fetch = some (w, u) ∧ decode w = .ok i ∧ exec i u = .next t))) := by
  unfold step at h
  rcases turn_cases s with ⟨hb, ht⟩ | ⟨rest, hb, ht⟩ | ⟨f, rest, hb, ht⟩ | ⟨k, rest, hb, ht⟩
  case inr.inr.inl =>
    rw [ht] at h
    exact .inl ⟨f, rest, hb, by simpa using h.symm⟩
  case inr.inr.inr =>
    rw [ht] at h
    exact .inr (.inl ⟨k, rest, hb, by simpa using h.symm⟩)
  all_goals
    rw [ht] at h
    refine .inr (.inr ⟨_, ht, ?_, ?_⟩)
    · first | exact ⟨_, .inl ⟨hb, rfl⟩, rfl⟩ | exact ⟨rest, .inr hb, rfl⟩
    · simp only at h
      split at h
      · exact .inl ⟨‹_›, by simpa using h.symm⟩
      · split at h
        · exact .inr ⟨_, _, _, ‹_›, ‹_›, h⟩
        · cases h

end Sys2Proof.Machine
end

