-- ==== Sys2Proof/Laws/Moves.lean ====
section
/-! SUPPORT. Everything a step can do, said once as a relation: `Move s o t` is one step of the CORE or
the HOST from `s` (what it fetched already taken away) to `t`, running the instruction `o` if any.
Invariants are proved by cases on it. -/

namespace Sys2Proof.Machine

/-- What a poll for an acknowledge can answer: nothing from the slave (perhaps after a discard is
logged), RETRY, or an acknowledge (42_master_request.md R152). -/
inductive Heard (s : State) : Result → State → Prop where
  | nothing : Heard s (Result.ofStatus .pending) s
  | other (f : Frame) : Heard s (Result.ofStatus .pending) (s.logDiscard f)
  | retry : Heard s (Result.ofStatus .retryRequested) s
  | answer (m : Message) (dlc : BitVec 4) (tos : BitVec 2) : Heard s (Result.ofAck m dlc tos) s

theorem heard_receiveAck (s : State) (slave : BitVec 7) (f : Frame) :
    Heard s (s.receiveAck slave f).1 (s.receiveAck slave f).2 := by
  rcases receiveAck_cases s slave f with ⟨-, h⟩ | ⟨-, -, h⟩ | ⟨-, -, h⟩ <;> rw [h]
  · exact .other f
  · exact .retry
  · exact .answer ..

/-- A poll changes nothing but the record, which gains at most the discard. -/
theorem Heard.same {s t : State} {r : Result} (h : Heard s r t) :
    t = s ∨ ∃ f, t = s.logDiscard f := by
  cases h with
  | nothing => exact .inl rfl
  | other f => exact .inr ⟨f, rfl⟩
  | retry => exact .inl rfl
  | answer => exact .inl rfl

/-- How WAIT_ACK goes on after a poll (42_master_request.md R154). -/
theorem waitAckWith_cases (slave : BitVec 7) (r : Result) (t : State) :
    (∃ r', State.waitAckWith slave (r, t) = { t with budget := none }.finish r') ∨
    (∃ f, t.resendFrame slave = .ok f ∧
      State.waitAckWith slave (r, t) = t.stopAt (.waitAckResend slave f)) ∨
    (1 < t.budget.getD 0 ∧ State.waitAckWith slave (r, t) =
      { t with budget := some (t.budget.getD 0 - 1) }.stopAt (.waitAck slave)) := by
  unfold State.waitAckWith
  rcases afterPoll_cases t slave r with ⟨-, e⟩ | ⟨_, -, -, e⟩ | ⟨f, -, hf, e⟩ | ⟨-, -, -, e⟩ | ⟨-, -, hb, e⟩ <;>
    simp only [e]
  · exact .inl ⟨_, rfl⟩
  · exact .inl ⟨_, rfl⟩
  · exact .inr (.inl ⟨f, hf, rfl⟩)
  · exact .inl ⟨_, rfl⟩
  · exact .inr (.inr ⟨hb, trivial⟩)

/-- How the probe goes on after a poll (43_discovery.md R192, R193). -/
theorem probeWith_cases (c : BitVec 7) (n : Nat) (r : Result) (t : State) :
    (∃ pong, State.probeWith c n (r, t) = ({ t with budget := none }.allocate c pong).beginDrain) ∨
    State.probeWith c n (r, t) = ({ t with budget := none }.probeFailed c n).beginDrain ∨
    (∃ f, t.resendFrame c = .ok f ∧ State.probeWith c n (r, t) = t.stopAt (.probeResend c n f)) ∨
    (1 < t.budget.getD 0 ∧ State.probeWith c n (r, t) =
      { t with budget := some (t.budget.getD 0 - 1) }.stopAt (.probeWait c n)) := by
  unfold State.probeWith
  rcases afterPoll_cases t c r with ⟨hs, e⟩ | ⟨_, -, -, e⟩ | ⟨f, -, hf, e⟩ | ⟨-, -, -, e⟩ | ⟨-, -, hb, e⟩ <;>
    simp only [e]
  · exact .inl ⟨r.data, by rw [if_pos hs]⟩
  · split
    · exact .inl ⟨_, rfl⟩
    · exact .inr (.inl rfl)
  · exact .inr (.inr (.inl ⟨f, hf, rfl⟩))
  · exact .inr (.inl rfl)
  · exact .inr (.inr (.inr ⟨hb, trivial⟩))

/-- What `Transmit` leads to, by the command at it. -/
theorem resume_of_placed {s : State} {p : Point} {f : Frame} {tx : List Slot} (hp : p.frame? = some f)
    (ht : placeFrame f s.tx = some tx) :
    (∃ slave, p = .sendReq slave f ∧ s.resume p = { s with
      tx := tx, record := s.record ++ [Observation.transmit f], pending := Pending.ofFrame slave f
      }.finish (Result.ofStatus .success)) ∨
    ((p = .sendReqAgain f ∨ p = .sendAck f) ∧ s.resume p = { s with
      tx := tx, record := s.record ++ [Observation.transmit f] }.finish (Result.ofStatus .success)) ∨
    (∃ slave, p = .waitAckResend slave f ∧ s.resume p = { s with
      tx := tx, record := s.record ++ [Observation.transmit f] }.refill.stopAt (.waitAck slave)) ∨
    (∃ c n, p = .probeSend c n f ∧ s.resume p = { s with
      tx := tx, record := s.record ++ [Observation.transmit f], pending := Pending.ofFrame c f
      }.refill.stopAt (.probeWait c n)) ∨
    (∃ c n, p = .probeResend c n f ∧ s.resume p = { s with
      tx := tx, record := s.record ++ [Observation.transmit f] }.refill.stopAt (.probeWait c n)) ∨
    (p = .reply f ∧ s.resume p = { s with
      tx := tx, record := s.record ++ [Observation.transmit f] }.stopAt .drain) := by
  cases p <;> simp only [Point.frame?, Option.some.injEq, reduceCtorEq] at hp <;> subst hp <;>
    simp [State.resume, State.attempt, State.transmit, ht]

/-- One step of the CORE or the HOST. -/
inductive Move (s : State) : Option Instr → State → Prop where
  /-- A command ends at once with no other effect. -/
  | ends (o : Option Instr) (r : Result) : s.run = none → Move s o (s.finish r)
  /-- INIT. -/
  | resets : s.run = none → s.outer = none →
      Move s (some .init) (s.resetCore.finish (Result.ofStatus .success))
  /-- NODEID_SET. -/
  | renames (id : BitVec 8) : s.run = none → id.toNat < 128 → Move s (some (.nodeidSet id))
      ({ s with nodeId := id.setWidth 7, configured := true }.finish (Result.ofStatus .success))
  /-- SEND_REQ hands its frame over. -/
  | requests (slave : BitVec 7) (tos : BitVec 2) (control : BitVec 16) (dlc : BitVec 4) (msg : Message)
      (tx : List Slot) : s.run = none → s.configured = true → isMasterId s.nodeId = true → dlc.toNat ≤ 8 →
      placeFrame (s.requestFrame slave tos control dlc msg) s.tx = some tx →
      Move s (some (.sendReq slave tos control dlc msg)) ({ s with
        tx := tx
        record := s.record ++ [Observation.transmit (s.requestFrame slave tos control dlc msg)]
        pending := Pending.ofFrame slave (s.requestFrame slave tos control dlc msg)
        }.finish (Result.ofStatus .success))
  /-- SEND_REQ holds. -/
  | requestHolds (slave : BitVec 7) (tos : BitVec 2) (control : BitVec 16) (dlc : BitVec 4) (msg : Message) :
      s.run = none → dlc.toNat ≤ 8 → Slot.free ∉ s.tx → Move s (some (.sendReq slave tos control dlc msg))
        (s.stopAt (.sendReq slave (s.requestFrame slave tos control dlc msg)))
  /-- SEND_REQ_AGAIN hands its frame over. -/
  | again (slave : BitVec 7) (f : Frame) (tx : List Slot) : s.run = none → s.resendFrame slave = .ok f →
      placeFrame f s.tx = some tx → Move s (some (.sendReqAgain slave))
        ({ s with tx := tx, record := s.record ++ [Observation.transmit f] }.finish (Result.ofStatus .success))
  /-- SEND_REQ_AGAIN holds. -/
  | againHolds (slave : BitVec 7) (f : Frame) : s.run = none → s.resendFrame slave = .ok f →
      Slot.free ∉ s.tx → Move s (some (.sendReqAgain slave)) (s.stopAt (.sendReqAgain f))
  /-- SEND_ACK hands its frame over. -/
  | acks (master : BitVec 7) (tos : BitVec 2) (dlc : BitVec 4) (msg : Message) (f : Frame) (tx : List Slot) :
      s.run = none → s.sendAckFrame master tos dlc msg = .ok f → placeFrame f s.tx = some tx →
      Move s (some (.sendAck master tos dlc msg))
        ({ s with tx := tx, record := s.record ++ [Observation.transmit f] }.finish (Result.ofStatus .success))
  /-- SEND_ACK holds. -/
  | ackHolds (master : BitVec 7) (tos : BitVec 2) (dlc : BitVec 4) (msg : Message) (f : Frame) :
      s.run = none → s.sendAckFrame master tos dlc msg = .ok f → Slot.free ∉ s.tx →
      Move s (some (.sendAck master tos dlc msg)) (s.stopAt (.sendAck f))
  /-- WAIT_ACK_NB takes a frame. -/
  | polls (slave : BitVec 7) (f : Frame) (q : List Frame) (r : Result) (t : State) : s.run = none →
      s.aq = f :: q → Heard { s with aq := q } r t → Move s (some (.waitAckNb slave)) (t.finish r)
  /-- WAIT_ACK makes its first poll. -/
  | waits (slave : BitVec 7) (q : List Frame) (r : Result) (t : State) : s.run = none →
      q = s.aq ∨ (∃ f, s.aq = f :: q) → Heard { s.refill with aq := q } r t →
      Move s (some (.waitAck slave)) (State.waitAckWith slave (r, t))
  /-- HANDLER pings a candidate. -/
  | scans (c : BitVec 7) (n : Nat) (tx : List Slot) : s.run = none → s.outer = none → s.isMaster = true →
      s.scanProbe = some (c, n) →
      placeFrame (s.requestFrame c tosPing 0 0 Message.zero) s.tx = some tx →
      Move s (some .handler) ({ s.advanceCursor with
        tx := tx
        record := s.record ++ [Observation.transmit (s.requestFrame c tosPing 0 0 Message.zero)]
        pending := Pending.ofFrame c (s.requestFrame c tosPing 0 0 Message.zero)
        }.refill.stopAt (.probeWait c n))
  /-- HANDLER holds at its ping. -/
  | scanHolds (c : BitVec 7) (n : Nat) : s.run = none → s.outer = none → s.isMaster = true →
      s.scanProbe = some (c, n) → Slot.free ∉ s.tx → Move s (some .handler)
        (s.advanceCursor.stopAt (.probeSend c n (s.requestFrame c tosPing 0 0 Message.zero)))
  /-- HANDLER probes nothing. -/
  | drains (t : State) : s.run = none → s.outer = none →
      (t = s ∧ s.isMaster = false) ∨ (t = s.advanceCursor ∧ s.isMaster = true ∧ s.scanProbe = none) →
      Move s (some .handler) t.startDrain
  /-- A request is answered. -/
  | replies (o : Option Instr) (ms : BitVec 3) (tos : BitVec 2) : s.run = some .drain →
      Move s o (s.enterReply (masterOf ms) tos)
  /-- Lock. -/
  | locks (q : EtosOps) : s.run = some .drain → (∀ m, s.locked = some m → q.ms = m) →
      Move s (some (.etosLock q)) ({ s with locked := some q.ms }.enterReply (masterOf q.ms) tosOk)
  /-- Unlock. -/
  | unlocks (q : EtosOps) : s.run = some .drain → (∀ m, s.locked = some m → q.ms = m) →
      Move s (some (.etosUnlock q)) ({ s with locked := none }.enterReply (masterOf q.ms) tosOk)
  /-- A request reaches the HOST. -/
  | calls (o : Option Instr) (ms : BitVec 3) (ev : CallEvent) (back : Option (BitVec 7)) :
      s.run = some .drain → (∀ m, s.locked = some m → ms = m) → eventMaster ev = masterOf ms →
      back = none ∨ back = some (masterOf ms) → Move s o (s.enterCall ev back)
  /-- WAIT_ACK polls. -/
  | hears (o : Option Instr) (slave : BitVec 7) (r : Result) (t : State) : s.run = some (.waitAck slave) →
      Heard s r t → Move s o (State.waitAckWith slave (r, t))
  /-- The probe polls. -/
  | probes (o : Option Instr) (c : BitVec 7) (n : Nat) (r : Result) (t : State) :
      s.run = some (.probeWait c n) → Heard s r t → Move s o (State.probeWith c n (r, t))
  /-- A running command goes on after its Transmit, or its frame-less wait goes on. -/
  | resumes (p : Point) (f : Frame) (tx : List Slot) : s.run = some p → p.frame? = some f →
      placeFrame f s.tx = some tx → Move s none (s.resume p)
  /-- The drain ends. -/
  | drained : s.run = some .drain → s.rq = [] → s.locked = none →
      Move s none (s.finish (Result.ofStatus .success))
  /-- Nothing changes: a hold, or the HOST has nothing to do. -/
  | holds : Move s none s
  /-- The HOST returns from a Call. -/
  | returns (v : Int) (more : List HostAction) : s.run = none → s.host = .ret v :: more →
      Move s none { s with host := more }.returnFromCall

theorem move_arbitrate {s t : State} {ms : BitVec 3} {k : State → State} {i : Instr}
    (h : s.arbitrate ms k = .next t)
    (hk : s.run = some .drain → (∀ m, s.locked = some m → ms = m) → Move s (some i) (k s)) :
    Move s (some i) t := by
  obtain ⟨hr, ⟨m, -, -, rfl⟩ | ⟨hl, rfl⟩⟩ := arbitrate_eq_next h
  · exact .replies _ _ _ hr
  · exact hk hr hl

theorem move_takeAck {s t : State} {f : Frame} {i : Instr} (h : s.takeAck f = .next t) :
    Move s (some i) t := by
  rcases takeAck_eq_next h with ⟨slave, hr, rfl⟩ | ⟨c, n, hr, rfl⟩
  · exact .hears _ _ _ _ hr (heard_receiveAck ..)
  · exact .probes _ _ _ _ _ hr (heard_receiveAck ..)

theorem move_notifyHook {s t : State} {q : EtosOps} {kind : HookKind} {len : Nat} {i : Instr}
    (h : s.notifyHook q kind len = .next t) : Move s (some i) t := by
  refine move_arbitrate h fun hr hl => ?_
  split
  · exact .calls _ _ _ _ hr hl rfl (.inr rfl)
  · exact .replies _ _ _ hr

theorem move_rejectEtos {s t : State} {q : EtosOps} {i : Instr} (h : s.rejectEtos q = .next t) :
    Move s (some i) t :=
  move_arbitrate h fun hr _ => .replies _ _ _ hr

theorem move_forward {s t : State} {q : FrameOps} {tos : BitVec 2} {i : Instr}
    (h : s.forward q tos = .next t) : Move s (some i) t :=
  move_arbitrate h fun hr hl => .calls _ _ _ _ hr hl rfl (.inl rfl)

theorem move_illegal {s t : State} {i : Instr} (h : s.illegalCommand = .next t) : Move s (some i) t := by
  obtain ⟨hr, h⟩ := issue_eq_next h
  cases h
  exact .ends _ _ hr

/-- The running command goes on from the point it has reached. -/
theorem move_resume {s : State} {p : Point} (hr : s.run = some p)
    (hq : p = .drain → s.rq = []) (ha : p.inWait = true → p.frame? = none → s.aq = []) :
    Move s none (s.resume p) := by
  have stop : s.stopAt p = s := by cases s; simp_all [State.stopAt]
  have sends : ∀ (f : Frame) (k : State → State), p.frame? = some f → s.resume p = s.attempt f p k →
      Move s none (s.resume p) := by
    intro f k hf he
    rcases attempt_cases s f p k with ⟨tx, htx, -⟩ | ⟨-, e⟩
    · exact .resumes p f tx hr hf htx
    · rw [he, e, stop]
      exact .holds
  cases p with
  | sendReq slave f => exact sends f _ rfl rfl
  | sendReqAgain f => exact sends f _ rfl rfl
  | waitAck slave =>
    rcases pollAck_cases s slave with ⟨-, e⟩ | ⟨f, q, h, -⟩
    · simp only [State.resume, e]
      exact .hears _ _ _ _ hr .nothing
    · simp [ha rfl rfl] at h
  | waitAckResend slave f => exact sends f _ rfl rfl
  | sendAck f => exact sends f _ rfl rfl
  | probeSend c n f => exact sends f _ rfl rfl
  | probeWait c n =>
    rcases pollAck_cases s c with ⟨-, e⟩ | ⟨f, q, h, -⟩
    · simp only [State.resume, e]
      exact .probes _ _ _ _ _ hr .nothing
    · simp [ha rfl rfl] at h
  | probeResend c n f => exact sends f _ rfl rfl
  | drain =>
    simp only [State.resume, hq rfl, if_true, State.drainEmpty]
    split
    · exact .drained hr (hq rfl) ‹_›
    · rw [stop]
      exact .holds
  | reply f => exact sends f _ rfl rfl

/-- What the meaning of an instruction can do. -/
theorem exec_moves {i : Instr} {s t : State} (h : exec i s = .next t) : Move s (some i) t := by
  cases i with
  | init =>
    simp only [exec, execInit] at h
    obtain ⟨hr, h⟩ := issue_eq_next h
    split at h
    · cases h
    · cases h
      exact .resets hr (by simpa using ‹¬s.outer.isSome = true›)
  | nodeidSet id =>
    simp only [exec, execNodeidSet] at h
    obtain ⟨hr, h⟩ := issue_eq_next h
    simp only [Host.Outcome.next.injEq] at h
    subst h
    split
    · exact .ends _ _ hr
    · exact .renames id hr (by omega)
  | nodeidGet =>
    simp only [exec, execNodeidGet] at h
    obtain ⟨hr, h⟩ := issue_eq_next h
    simp only [Host.Outcome.next.injEq] at h
    subst h
    split <;> exact .ends _ _ hr
  | sendReq slave tos control dlc msg =>
    simp only [exec, execSendReq] at h
    obtain ⟨hr, h⟩ := issue_eq_next h
    simp only [Host.Outcome.next.injEq] at h
    subst h
    rcases sendReqFrame_cases s slave tos control dlc msg with
      ⟨-, e⟩ | ⟨-, -, e⟩ | ⟨-, -, -, e⟩ | ⟨hc, hm, hd, e⟩ <;> simp only [e]
    · exact .ends _ _ hr
    · exact .ends _ _ hr
    · exact .ends _ _ hr
    · simp only [State.resume]
      rcases attempt_cases s (s.requestFrame slave tos control dlc msg)
        (.sendReq slave (s.requestFrame slave tos control dlc msg)) _ with ⟨tx, htx, e⟩ | ⟨hf, e⟩
      · rw [e]
        exact .requests _ _ _ _ _ tx hr hc hm hd htx
      · rw [e]
        exact .requestHolds _ _ _ _ _ hr hd hf
  | sendReqAgain slave =>
    simp only [exec, execSendReqAgain] at h
    obtain ⟨hr, h⟩ := issue_eq_next h
    simp only [Host.Outcome.next.injEq] at h
    subst h
    split
    · exact .ends _ _ hr
    · rename_i f hf
      simp only [State.resume]
      rcases attempt_cases s f (.sendReqAgain f) _ with ⟨tx, htx, e⟩ | ⟨hn, e⟩
      · rw [e]
        exact .again slave f tx hr hf htx
      · rw [e]
        exact .againHolds slave f hr hf hn
  | waitAckNb slave =>
    simp only [exec, execWaitAckNb] at h
    obtain ⟨hr, h⟩ := issue_eq_next h
    simp only [Host.Outcome.next.injEq] at h
    subst h
    rcases pollAck_cases s slave with ⟨-, e⟩ | ⟨f, q, hq, e⟩ <;> rw [e]
    · exact .ends _ _ hr
    · exact .polls slave f q _ _ hr hq (heard_receiveAck ..)
  | waitAck slave =>
    simp only [exec, execWaitAck] at h
    obtain ⟨hr, h⟩ := issue_eq_next h
    simp only [Host.Outcome.next.injEq] at h
    subst h
    simp only [State.resume]
    rcases pollAck_cases s.refill slave with ⟨-, e⟩ | ⟨f, q, hq, e⟩ <;> rw [e]
    · exact .waits slave s.aq _ _ hr (.inl rfl) .nothing
    · exact .waits slave q _ _ hr (.inr ⟨f, hq⟩) (heard_receiveAck ..)
  | sendAck master tos dlc msg =>
    simp only [exec, execSendAck] at h
    obtain ⟨hr, h⟩ := issue_eq_next h
    simp only [Host.Outcome.next.injEq] at h
    subst h
    split
    · exact .ends _ _ hr
    · rename_i f hf
      simp only [State.resume]
      rcases attempt_cases s f (.sendAck f) _ with ⟨tx, htx, e⟩ | ⟨hn, e⟩
      · rw [e]
        exact .acks _ _ _ _ f tx hr hf htx
      · rw [e]
        exact .ackHolds _ _ _ _ f hr hf hn
  | slaveInfoGet slave =>
    simp only [exec, execSlaveInfoGet] at h
    obtain ⟨hr, h⟩ := issue_eq_next h
    simp only [Host.Outcome.next.injEq] at h
    subst h
    split
    · exact .ends _ _ hr
    · split
      · exact .ends _ _ hr
      · split
        · exact .ends _ _ hr
        · split <;> exact .ends _ _ hr
  | handler =>
    simp only [exec, execHandler] at h
    obtain ⟨hr, h⟩ := issue_eq_next h
    split at h
    · cases h
    · have ho : s.outer = none := by simpa using ‹¬s.outer.isSome = true›
      simp only [Host.Outcome.next.injEq] at h
      subst h
      unfold State.startHandler
      split
      · split
        · rename_i c n hc
          simp only [State.resume]
          rcases attempt_cases s.advanceCursor (s.requestFrame c tosPing 0 0 Message.zero)
            (.probeSend c n (s.requestFrame c tosPing 0 0 Message.zero)) _ with ⟨tx, htx, e⟩ | ⟨hn, e⟩
          · rw [e]
            exact .scans c n tx hr ho ‹_› hc htx
          · rw [e]
            exact .scanHolds c n hr ho ‹_› hc hn
        · exact .drains _ hr ho (.inr ⟨rfl, ‹_›, ‹_›⟩)
      · exact .drains _ hr ho (.inl ⟨rfl, by simpa using ‹¬s.isMaster = true›⟩)
  | reservedA => exact move_illegal h
  | reservedB => exact move_illegal h
  | reservedC => exact move_illegal h
  | reservedD => exact move_illegal h
  | reservedE => exact move_illegal h
  | reservedF => exact move_illegal h
  | etosLock q =>
    simp only [exec, execEtosLock] at h
    exact move_arbitrate h fun hr hl => .locks q hr hl
  | etosUnlock q =>
    simp only [exec, execEtosUnlock] at h
    exact move_arbitrate h fun hr hl => .unlocks q hr hl
  | etosReserved02 q => exact move_rejectEtos h
  | etosReserved03 q => exact move_rejectEtos h
  | etosInitHook q =>
    simp only [exec, execEtosInitHook] at h
    exact move_arbitrate h fun hr hl => .calls _ _ _ _ hr hl rfl (.inr rfl)
  | etosUnimplemented05 q => exact move_rejectEtos h
  | etosNotifyEvent q => exact move_notifyHook h
  | etosNotifySysex q => exact move_notifyHook h
  | etosDinToggle q => exact move_notifyHook h
  | etosEncChange q => exact move_notifyHook h
  | etosAinChange q => exact move_notifyHook h
  | etosReserved0B q => exact move_rejectEtos h
  | etosReserved0C q => exact move_rejectEtos h
  | etosReserved0D q => exact move_rejectEtos h
  | etosReserved0E q => exact move_rejectEtos h
  | etosClone q => exact move_rejectEtos h
  | etosApp1 q => exact move_forward h
  | etosApp2 q => exact move_forward h
  | etosApp3 q => exact move_forward h
  | etosApp4 q => exact move_forward h
  | ramRead q => exact move_forward h
  | ramWrite q => exact move_forward h
  | ping q => exact move_forward h
  | ackOk q => exact move_takeAck h
  | ackRead q => exact move_takeAck h
  | ackRetry q => exact move_takeAck h
  | ackError q => exact move_takeAck h

/-- Where nothing is fetched there is nothing to poll. -/
theorem fetch_eq_none {s : State} (h : s.fetch = none) :
    (s.run = some .drain → s.rq = []) ∧
    ∀ p, s.run = some p → p.inWait = true → p.frame? = none → s.aq = [] := by
  refine ⟨fun hr => ?_, fun p hr hw hp => ?_⟩
  · simp only [State.fetch, hr] at h
    split at h
    · cases h
    · assumption
  · cases p <;> simp only [Point.inWait, Point.frame?, reduceCtorEq, Bool.false_eq_true] at hw hp
    all_goals
      simp only [State.fetch, hr] at h
      split at h
      · cases h
      · assumption

/-- What is taken away before a step of the CORE or the HOST: the BUS's `yield` (or its list begins again),
and the word fetched. -/
structure Taken (s u : State) : Prop where
  same : ∃ rq aq host bus, u = { s with rq := rq, aq := aq, host := host, bus := bus }
  rq : u.rq = s.rq ∨ ∃ f, s.rq = f :: u.rq
  aq : u.aq = s.aq ∨ ∃ f, s.aq = f :: u.aq
  host : u.host = s.host ∨ ∃ cmd data, s.host = .command cmd data :: u.host
  bus : Quiet s u.bus

/-- Everything a step that answers a next state can do: the BUS's step, or a move of the CORE or the HOST
that runs `s.runs`. -/
theorem next_moves {s t : State} (h : Next s t) :
    (∃ f rest, s.bus = .deliver f :: rest ∧ t = { s with bus := rest }.deliver f ∧ s.runs = none) ∨
    (∃ k rest, s.bus = .sent k :: rest ∧ t = { s with bus := rest }.sendSlot k ∧ s.runs = none) ∨
    ∃ u, Taken s u ∧ ((∃ i, s.runs = some (i, u) ∧ Move u (some i) t) ∨ (s.runs = none ∧ Move u none t)) := by
  rcases step_eq_next h with ⟨f, rest, hb, rfl⟩ | ⟨k, rest, hb, rfl⟩ | ⟨v, ht, hv, hc⟩
  · exact .inl ⟨f, rest, hb, rfl, by simp [State.runs, State.turn, hb]⟩
  · exact .inr (.inl ⟨k, rest, hb, rfl, by simp [State.runs, State.turn, hb]⟩)
  · obtain ⟨bus, hb, rfl⟩ := hv
    refine .inr (.inr ?_)
    rcases hc with ⟨hf, rfl⟩ | ⟨w, u, i, hf, hd, he⟩
    · refine ⟨{ s with bus := bus }, ⟨⟨_, _, _, _, rfl⟩, .inl rfl, .inl rfl, .inl rfl, hb⟩,
        .inr ⟨by simp [State.runs, ht, hf], ?_⟩⟩
      rcases proceed_cases { s with bus := bus } with ⟨p, hr, e⟩ | ⟨v, rest, hr, hh, e⟩ | ⟨-, -, e⟩
      · rw [e]
        exact move_resume hr (fun hp => (fetch_eq_none hf).1 (hp ▸ hr)) ((fetch_eq_none hf).2 p hr)
      · rw [e]
        exact .returns v rest hr hh
      · rw [e]
        exact .holds
    · refine ⟨u, ?_, .inl ⟨i, by simp [State.runs, ht, hf, hd], exec_moves he⟩⟩
      rcases fetch_eq_some hf with ⟨c, d, rest, -, hh, -, rfl⟩ | ⟨f, q, -, hq, -, rfl⟩ | ⟨f, q, -, hq, -, rfl⟩
      · exact ⟨⟨_, _, _, _, rfl⟩, .inl rfl, .inl rfl, .inr ⟨c, d, hh⟩, hb⟩
      · exact ⟨⟨_, _, _, _, rfl⟩, .inr ⟨f, hq⟩, .inl rfl, .inl rfl, hb⟩
      · exact ⟨⟨_, _, _, _, rfl⟩, .inl rfl, .inr ⟨f, hq⟩, .inl rfl, hb⟩

end Sys2Proof.Machine
end

