-- ==== Sys2Proof/Laws/Effects.lean ====
section
/-! SUPPORT. `Move` with every poll, allocation and reply resolved: `Effect s o t` names the fields that
change, as record updates of `s`. Proofs by cases on it need no further unfolding. -/

namespace Sys2Proof.Machine

/-- The record with at most one discarded acknowledge more. -/
abbrev Logged (s : State) (rec : List Observation) : Prop :=
  rec = s.record ∨ ∃ f, rec = s.record ++ [Observation.discardedAck f]

/-- HANDLER is at its drain's poll, or at the Transmit of a reply. -/
abbrev BackToDrain (p : Point) : Prop := p = .drain ∨ ∃ f, p = .reply f ∧ IsMbnet f

/-- `q` is AQ, or AQ without its head. -/
abbrev Polled (s : State) (q : List Frame) : Prop := q = s.aq ∨ ∃ f, s.aq = f :: q

/-- The cursor where a SCAN_STEP that probes nothing leaves it. -/
abbrev ScannedTo (s : State) (c : BitVec 7) : Prop :=
  c = s.scanCursor ∨ c = candidateSucc s.params s.scanCandidate

/-- `Transmit(f)` in a state whose slots are then `tx`. -/
abbrev sending (s : State) (tx : List Slot) (f : Frame) : State :=
  { s with tx := tx, record := s.record ++ [Observation.transmit f] }

/-- The same, with PENDING written after it. -/
abbrev requesting (s : State) (tx : List Slot) (c : BitVec 7) (f : Frame) : State :=
  { s with
    tx := tx, record := s.record ++ [Observation.transmit f], pending := Pending.ofFrame c f }

/-- What one step of the CORE or the HOST changes. -/
inductive Effect (s : State) : Option Instr → State → Prop where
  | ends (o : Option Instr) (r : Result) : s.run = none → Effect s o (s.finish r)
  | resets : s.run = none → s.outer = none →
      Effect s (some .init) (s.resetCore.finish (Result.ofStatus .success))
  | renames (id : BitVec 8) : s.run = none → id.toNat < 128 → Effect s (some (.nodeidSet id))
      ({ s with nodeId := id.setWidth 7, configured := true }.finish (Result.ofStatus .success))
  | requests (slave tos control dlc msg tx f) : s.run = none → s.configured = true →
      isMasterId s.nodeId = true → dlc.toNat ≤ 8 → f = s.requestFrame slave tos control dlc msg →
      placeFrame f s.tx = some tx → Effect s (some (.sendReq slave tos control dlc msg))
        ((requesting s tx slave f).finish (Result.ofStatus .success))
  | requestHolds (slave tos control dlc msg f) : s.run = none → dlc.toNat ≤ 8 → Slot.free ∉ s.tx →
      f = s.requestFrame slave tos control dlc msg →
      Effect s (some (.sendReq slave tos control dlc msg)) (s.stopAt (.sendReq slave f))
  | again (i : Instr) (f tx) : s.run = none → IsMbnet f ∨ (∃ c, s.resendFrame c = .ok f) →
      placeFrame f s.tx = some tx →
      Effect s (some i) ((sending s tx f).finish (Result.ofStatus .success))
  | againHolds (slave f) : s.run = none → s.resendFrame slave = .ok f → Slot.free ∉ s.tx →
      Effect s (some (.sendReqAgain slave)) (s.stopAt (.sendReqAgain f))
  | ackHolds (i : Instr) (f) : s.run = none → IsMbnet f → Slot.free ∉ s.tx →
      Effect s (some i) (s.stopAt (.sendAck f))
  | polls (o : Option Instr) (q r rec) : s.run = none → (∃ f, s.aq = f :: q) → Logged s rec →
      Effect s o ({ s with aq := q, record := rec }.finish r)
  | waitEnds (o : Option Instr) (q r rec) :
      (s.run = none ∧ (∃ c, o = some (.waitAck c)) ∧ Polled s q) ∨
        (∃ c, s.run = some (.waitAck c)) ∧ q = s.aq → Logged s rec →
      Effect s o ({ s with aq := q, record := rec, budget := none }.finish r)
  | waitPolls (o : Option Instr) (q rec slave b) :
      (s.run = none ∧ Polled s q ∧ b < s.params.ackPollBudget) ∨
        (s.run = some (.waitAck slave) ∧ q = s.aq ∧ b < s.budget.getD 0) → Logged s rec → 0 < b →
      Effect s o ({ s with aq := q, record := rec, budget := some b }.stopAt (.waitAck slave))
  | waitResends (o : Option Instr) (q rec slave b f) :
      (s.run = none ∧ Polled s q ∧ b = some s.params.ackPollBudget) ∨
        (s.run = some (.waitAck slave) ∧ q = s.aq ∧ b = s.budget) → Logged s rec →
      s.resendFrame slave = .ok f →
      Effect s o ({ s with aq := q, record := rec, budget := b }.stopAt (.waitAckResend slave f))
  | scans (c n tx f) : s.run = none → s.outer = none → s.isMaster = true → s.scanProbe = some (c, n) →
      f = s.requestFrame c tosPing 0 0 Message.zero → placeFrame f s.tx = some tx →
      Effect s (some .handler) ({ s.advanceCursor with
        tx := tx
        record := s.record ++ [Observation.transmit f]
        pending := Pending.ofFrame c f }.refill.stopAt (.probeWait c n))
  | scanHolds (c n f) : s.run = none → s.outer = none → s.isMaster = true → s.scanProbe = some (c, n) →
      f = s.requestFrame c tosPing 0 0 Message.zero → Slot.free ∉ s.tx →
      Effect s (some .handler) (s.advanceCursor.stopAt (.probeSend c n f))
  | drains (c) : s.run = none → s.outer = none → ScannedTo s c →
      Effect s (some .handler) { s with scanCursor := c, locked := none, run := some .drain }
  | drainsEnd (c r) : s.run = none → s.outer = none → ScannedTo s c →
      Effect s (some .handler) ({ s with scanCursor := c, locked := none }.finish r)
  | replies (o : Option Instr) (p) : s.run = some .drain → BackToDrain p → Effect s o (s.stopAt p)
  | locks (q p) : s.run = some .drain → (∀ m, s.locked = some m → q.ms = m) → BackToDrain p →
      Effect s (some (.etosLock q)) ({ s with locked := some q.ms }.stopAt p)
  | unlocks (q p) : s.run = some .drain → (∀ m, s.locked = some m → q.ms = m) → BackToDrain p →
      Effect s (some (.etosUnlock q)) ({ s with locked := none }.stopAt p)
  | calls (o : Option Instr) (ms : BitVec 3) (ev : CallEvent) (back : Option (BitVec 7)) :
      s.run = some .drain → (∀ m, s.locked = some m → ms = m) → eventMaster ev = masterOf ms →
      back = none ∨ back = some (masterOf ms) → Effect s o (s.enterCall ev back)
  | found (o : Option Instr) (c n rec pong i) : s.run = some (.probeWait c n) → Logged s rec →
      firstInvalid s.slaveRecord = some i → Effect s o ({ s with
        record := rec
        budget := none
        slaveRecord := s.slaveRecord.set i ⟨true, pong⟩ }.setIndex c (.found i)).beginDrain
  | full (o : Option Instr) (c n rec) : s.run = some (.probeWait c n) → Logged s rec →
      firstInvalid s.slaveRecord = none →
      Effect s o ({ s with record := rec, budget := none }.setIndex c .absent).beginDrain
  | failed (o : Option Instr) (c n rec) : s.run = some (.probeWait c n) → Logged s rec →
      Effect s o ({ s with record := rec, budget := none }.probeFailed c n).beginDrain
  | probePolls (o : Option Instr) (c n rec b) : s.run = some (.probeWait c n) → Logged s rec → 0 < b →
      b < s.budget.getD 0 → Effect s o { s with record := rec, budget := some b }
  | probeResends (o : Option Instr) (c n rec f) : s.run = some (.probeWait c n) → Logged s rec →
      s.resendFrame c = .ok f → Effect s o ({ s with record := rec }.stopAt (.probeResend c n f))
  | sendReqSent (slave f tx) : s.run = some (.sendReq slave f) → placeFrame f s.tx = some tx →
      Effect s none ((requesting s tx slave f).finish (Result.ofStatus .success))
  | sentPlain (f tx) : s.run = some (.sendReqAgain f) ∨ s.run = some (.sendAck f) →
      placeFrame f s.tx = some tx →
      Effect s none ((sending s tx f).finish (Result.ofStatus .success))
  | waitSent (slave f tx) : s.run = some (.waitAckResend slave f) → placeFrame f s.tx = some tx →
      Effect s none ((sending s tx f).refill.stopAt (.waitAck slave))
  | probeSent (c n f tx) : s.run = some (.probeSend c n f) → placeFrame f s.tx = some tx →
      Effect s none ((requesting s tx c f).refill.stopAt (.probeWait c n))
  | probeResent (c n f tx) : s.run = some (.probeResend c n f) → placeFrame f s.tx = some tx →
      Effect s none ((sending s tx f).refill.stopAt (.probeWait c n))
  | replySent (f tx) : s.run = some (.reply f) → placeFrame f s.tx = some tx →
      Effect s none ((sending s tx f).stopAt .drain)
  | drained : s.run = some .drain → s.rq = [] → s.locked = none →
      Effect s none (s.finish (Result.ofStatus .success))
  | holds : Effect s none s
  | returnsNop (v more) : s.run = none → s.outer = none → s.host = .ret v :: more →
      Effect s none { s with host := more }
  | returns (v more p) : s.run = none → s.outer.isSome = true → s.host = .ret v :: more → BackToDrain p →
      Effect s none ({ s with host := more, outer := none }.stopAt p)

/-- REPLY leads to its Transmit or straight to the drain. -/
theorem reply_run (s : State) (m : BitVec 7) (tos : BitVec 2) :
    (∃ f, s.enterReply m tos = s.stopAt (.reply f) ∧ IsMbnet f) ∨ s.enterReply m tos = s.stopAt .drain := by
  rcases enterReply_cases s m tos with ⟨-, -, h⟩ | ⟨-, h⟩
  · exact .inl ⟨_, h, rfl, rfl, by simp, by simp⟩
  · exact .inr h

/-- Every move is one of these effects. -/
theorem move_effect {s t : State} {o : Option Instr} (h : Move s o t) : Effect s o t := by
  cases h with
  | ends _ r hr => exact .ends _ _ hr
  | resets a b => exact .resets a b
  | renames id a b => exact .renames id a b
  | requests slave tos control dlc msg tx a b c d e => exact .requests _ _ _ _ _ tx _ a b c d rfl e
  | requestHolds slave tos control dlc msg a b c => exact .requestHolds _ _ _ _ _ _ a b c rfl
  | again slave f tx a b c => exact .again _ f tx a (.inr ⟨_, b⟩) c
  | againHolds slave f a b c => exact .againHolds slave f a b c
  | acks m tos dlc msg f tx a b c =>
    refine .again _ f tx a (.inl ?_) c
    rcases sendAckFrame_cases s m tos dlc msg with ⟨-, e⟩ | ⟨-, -, e⟩ | ⟨-, -, -, e⟩ | ⟨-, -, hd, e⟩ <;>
      rw [e] at b <;> cases b
    exact ⟨rfl, rfl, hd, by simp [keep_zeroFrom]⟩
  | ackHolds m tos dlc msg f a b c =>
    refine .ackHolds _ f a ?_ c
    rcases sendAckFrame_cases s m tos dlc msg with ⟨-, e⟩ | ⟨-, -, e⟩ | ⟨-, -, -, e⟩ | ⟨-, -, hd, e⟩ <;>
      rw [e] at b <;> cases b
    exact ⟨rfl, rfl, hd, by simp [keep_zeroFrom]⟩
  | polls slave f q r t hr hq hh =>
    rcases hh.same with rfl | ⟨f', rfl⟩
    · exact .polls _ q r s.record hr ⟨f, hq⟩ (.inl rfl)
    · exact .polls _ q r _ hr ⟨f, hq⟩ (.inr ⟨f', rfl⟩)
  | waits slave q r t hr hq hh =>
    have H : ∃ rec, Logged s rec ∧ t = { s.refill with aq := q, record := rec } := by
      rcases hh.same with rfl | ⟨f', rfl⟩
      · exact ⟨_, .inl rfl, rfl⟩
      · exact ⟨_, .inr ⟨f', rfl⟩, rfl⟩
    obtain ⟨rec, hrec, rfl⟩ := H
    rcases waitAckWith_cases slave r { s.refill with aq := q, record := rec } with
      ⟨r', e⟩ | ⟨f, hf, e⟩ | ⟨hb, e⟩ <;> rw [e]
    · exact .waitEnds _ q r' rec (.inl ⟨hr, ⟨_, rfl⟩, hq⟩) hrec
    · exact .waitResends _ q rec slave _ f (.inl ⟨hr, hq, rfl⟩) hrec hf
    · simp at hb
      exact .waitPolls _ q rec slave _ (.inl ⟨hr, hq, by simp; omega⟩) hrec (by simp; omega)
  | scans c n tx a b d e f => exact .scans c n tx _ a b d e rfl f
  | scanHolds c n a b d e f => exact .scanHolds c n _ a b d e rfl f
  | drains t hr ho ht =>
    rcases ht with ⟨rfl, -⟩ | ⟨rfl, -⟩ <;>
      simp only [State.startDrain, State.resume, State.drainEmpty] <;> split
    · exact .drainsEnd _ _ hr ho (.inl rfl)
    · exact .drains _ hr ho (.inl rfl)
    · exact .drainsEnd _ _ hr ho (.inr rfl)
    · exact .drains _ hr ho (.inr rfl)
  | replies o ms tos hr =>
    rcases reply_run s (masterOf ms) tos with ⟨f, e, hf⟩ | e <;> rw [e]
    · exact .replies _ _ hr (.inr ⟨f, rfl, hf⟩)
    · exact .replies _ _ hr (.inl rfl)
  | locks q hr hl =>
    rcases reply_run { s with locked := some q.ms } (masterOf q.ms) tosOk with ⟨f, e, hf⟩ | e <;> rw [e]
    · exact .locks _ _ hr hl (.inr ⟨f, rfl, hf⟩)
    · exact .locks _ _ hr hl (.inl rfl)
  | unlocks q hr hl =>
    rcases reply_run { s with locked := none } (masterOf q.ms) tosOk with ⟨f, e, hf⟩ | e <;> rw [e]
    · exact .unlocks _ _ hr hl (.inr ⟨f, rfl, hf⟩)
    · exact .unlocks _ _ hr hl (.inl rfl)
  | calls o ms ev back a b c d => exact .calls o ms ev back a b c d
  | hears o slave r t hr hh =>
    have H : ∃ rec, Logged s rec ∧ t = { s with record := rec } := by
      rcases hh.same with rfl | ⟨f', rfl⟩
      · exact ⟨_, .inl rfl, rfl⟩
      · exact ⟨_, .inr ⟨f', rfl⟩, rfl⟩
    obtain ⟨rec, hrec, rfl⟩ := H
    rcases waitAckWith_cases slave r { s with record := rec } with
      ⟨r', e⟩ | ⟨f, hf, e⟩ | ⟨hb, e⟩ <;> rw [e]
    · exact .waitEnds _ s.aq r' rec (.inr ⟨⟨_, hr⟩, rfl⟩) hrec
    · exact .waitResends _ s.aq rec slave s.budget f (.inr ⟨hr, rfl, rfl⟩) hrec hf
    · exact .waitPolls _ s.aq rec slave _ (.inr ⟨hr, rfl, by simp at hb ⊢; omega⟩) hrec (by simp at hb ⊢; omega)
  | probes o c n r t hr hh =>
    have H : ∃ rec, Logged s rec ∧ t = { s with record := rec } := by
      rcases hh.same with rfl | ⟨f', rfl⟩
      · exact ⟨_, .inl rfl, rfl⟩
      · exact ⟨_, .inr ⟨f', rfl⟩, rfl⟩
    obtain ⟨rec, hrec, rfl⟩ := H
    rcases probeWith_cases c n r { s with record := rec } with
      ⟨pong, e⟩ | e | ⟨f, hf, e⟩ | ⟨hb, e⟩ <;> rw [e]
    · rcases allocate_cases { s with record := rec, budget := none } c pong with
        ⟨i, hi, e⟩ | ⟨hi, e⟩ <;> rw [e]
      · exact .found _ c n rec pong i hr hrec hi
      · exact .full _ c n rec hr hrec hi
    · exact .failed _ c n rec hr hrec
    · exact .probeResends _ c n rec f hr hrec hf
    · have : { s with record := rec, budget := some (s.budget.getD 0 - 1) }.stopAt (.probeWait c n) =
          { s with record := rec, budget := some (s.budget.getD 0 - 1) } := by
        cases s; simp_all [State.stopAt]
      simp only at hb ⊢
      rw [this]
      exact .probePolls _ c n rec _ hr hrec (by omega) (by omega)
  | resumes p f tx hr hp ht =>
    rcases resume_of_placed hp ht with
      ⟨sl, rfl, e⟩ | ⟨hpp, e⟩ | ⟨sl, rfl, e⟩ | ⟨c, n, rfl, e⟩ | ⟨c, n, rfl, e⟩ | ⟨rfl, e⟩ <;> rw [e]
    · exact .sendReqSent _ _ _ hr ht
    · exact .sentPlain f _ (by rcases hpp with rfl | rfl <;> simp [hr]) ht
    · exact .waitSent _ _ _ hr ht
    · exact .probeSent _ _ _ _ hr ht
    · exact .probeResent _ _ _ _ hr ht
    · exact .replySent _ _ hr ht
  | drained a b c => exact .drained a b c
  | holds => exact .holds
  | returns v more hr hh =>
    rcases returnFromCall_cases { s with host := more } with ⟨ho, e⟩ | ⟨ev, m, ho, e⟩ | ⟨ev, ho, e⟩ <;> rw [e]
    · exact .returnsNop v more hr ho hh
    · rcases reply_run { s with host := more, outer := none } m tosOk with ⟨f, e, hf⟩ | e <;>
        rw [e]
      · exact .returns v more _ hr (by simp at ho; simp [ho]) hh (.inr ⟨f, rfl, hf⟩)
      · exact .returns v more _ hr (by simp at ho; simp [ho]) hh (.inl rfl)
    · exact .returns v more _ hr (by simp at ho; simp [ho]) hh (.inl rfl)

end Sys2Proof.Machine
end

