-- ==== Sys2Proof/Laws/PerInstr.lean ====
section
/-! SUPPORT. The family MatchesRow: the words of every well-formed instruction lie in its row of
spec/opcode_table.json. -/

namespace Sys2Proof.Laws

/-- The encoding of a well-formed instruction has the fixed bits of its row. -/
def MatchesRow.Statement (i : Instr) : Prop := i.WellFormed → i.row.holds (encode i) = true

/-! ### Masking an encoding masks its fields -/

theorem cmdWord_and (o p d e : BitVec 4) (i j : BitVec 8) (t u : BitVec 2) (c k : BitVec 16) :
    cmdWord o d i t c &&& cmdWord p e j u k =
      cmdWord (o &&& p) (d &&& e) (i &&& j) (t &&& u) (c &&& k) := by
  ext n hn
  simp [cmdWord]
  grind

theorem pack_and (u v : IdFields) :
    pack u &&& pack v =
      pack ⟨u.control &&& v.control, u.tos &&& v.tos, u.ms &&& v.ms, u.node &&& v.node, u.ack &&& v.ack⟩ := by
  ext k hk
  simp [pack]
  grind

theorem cat_and (h e g f : BitVec 8) :
    ((h ++ e).cast (by rfl) : BitVec 16) &&& ((g ++ f).cast (by rfl) : BitVec 16) =
      ((h &&& g) ++ (e &&& f)).cast (by rfl) := by
  ext k hk
  simp
  grind

/-- A command word shows its opcode under the mask 0xF. -/
theorem cmdWord_op (op dlc : BitVec 4) (id : BitVec 8) (tos : BitVec 2) (control : BitVec 16) :
    cmdWord op dlc id tos control &&& 0xF = cmdWord op 0 0 0 0 := by
  have h : (0xF : BitVec 64) = cmdWord 0xF 0 0 0 0 := by decide
  have hop : op &&& 0xF = op := by revert op; decide
  rw [h, cmdWord_and, hop]
  simp

/-- A built-in request shows its ETOS, its `tos` and its `ack` under its row's mask. -/
theorem etos_fixed (e : BitVec 8) (q : EtosOps) :
    pack ⟨(q.controlHigh ++ e).cast (by rfl), 0, q.ms, q.node, 0⟩ &&& 0x001FF801 =
      pack ⟨((0 : BitVec 8) ++ e).cast (by rfl), 0, 0, 0, 0⟩ := by
  have h : (0x001FF801 : BitVec 29) =
      pack ⟨((0 : BitVec 8) ++ (0xFF : BitVec 8)).cast (by rfl), 3, 0, 0, 1⟩ := by decide
  have he : e &&& 0xFF = e := by revert e; decide
  rw [h, pack_and]
  simp only [cat_and, he]
  simp

/-- Any other frame shows its `tos` and its `ack` under the mask of a row that fixes no ETOS bit. -/
theorem frame_fixed (control : BitVec 16) (tos : BitVec 2) (ms : BitVec 3) (node : BitVec 7) (ack : BitVec 1) :
    pack ⟨control, tos, ms, node, ack⟩ &&& 0x00001801 = pack ⟨0, tos, 0, 0, ack⟩ := by
  have h : (0x00001801 : BitVec 29) = pack ⟨0, 3, 0, 0, 1⟩ := by decide
  have ht : tos &&& 3 = tos := by revert tos; decide
  have ha : ack &&& 1 = ack := by revert ack; decide
  rw [h, pack_and]
  simp only [ht, ha]
  simp

/-- An application request shows the ETOS bits that its row fixes. -/
theorem app_fixed (control m v : BitVec 16) (ms : BitVec 3) (node : BitVec 7) (h : control &&& m = v) :
    pack ⟨control, 0, ms, node, 0⟩ &&& pack ⟨m, 3, 0, 0, 1⟩ = pack ⟨v, 0, 0, 0, 0⟩ := by
  rw [pack_and]
  simp only [h]
  simp

/-- The bits of `control[7:4]` that an ETOS_APP row fixes. -/
theorem etosLeads_bits (control : BitVec 16) (k : Nat) (hk : k < 4) (h : etosLeads control k = true) :
    control &&& (((0xF : BitVec 16) >>> k <<< k) <<< 4) = (1 : BitVec 16) <<< (k + 4) := by
  have key : ∀ (n : BitVec 4) (j : Fin 4), n >>> j.val = 1 →
      ∀ i : Fin 4, j ≤ i → n.getLsbD i.val = decide (i = j) := by decide
  simp only [etosLeads, beq_iff_eq] at h
  have bits := key _ ⟨k, hk⟩ h
  have h0 := bits 0
  have h1 := bits 1
  have h2 := bits 2
  have h3 := bits 3
  simp [Fin.le_def, Fin.ext_iff] at h0 h1 h2 h3
  ext i hi
  interval_cases k <;> interval_cases i <;> simp_all

/-! ### The rows -/

namespace MatchesRow

theorem init : Statement .init := by
  intro _
  simp only [Instr.row, encode, encodeCommand, Row.holds, cmdWord_op]
  decide

theorem nodeidSet (id : BitVec 8) : Statement (.nodeidSet id) := by
  intro _
  simp only [Instr.row, encode, encodeCommand, Row.holds, cmdWord_op]
  decide

theorem nodeidGet : Statement .nodeidGet := by
  intro _
  simp only [Instr.row, encode, encodeCommand, Row.holds, cmdWord_op]
  decide

theorem sendReq (slave : BitVec 7) (tos : BitVec 2) (control : BitVec 16) (dlc : BitVec 4) (msg : Message) : Statement (.sendReq slave tos control dlc msg) := by
  intro _
  simp only [Instr.row, encode, Row.holds, cmdWord_op]
  decide

theorem sendReqAgain (slave : BitVec 7) : Statement (.sendReqAgain slave) := by
  intro _
  simp only [Instr.row, encode, encodeCommand, Row.holds, cmdWord_op]
  decide

theorem waitAckNb (slave : BitVec 7) : Statement (.waitAckNb slave) := by
  intro _
  simp only [Instr.row, encode, encodeCommand, Row.holds, cmdWord_op]
  decide

theorem waitAck (slave : BitVec 7) : Statement (.waitAck slave) := by
  intro _
  simp only [Instr.row, encode, encodeCommand, Row.holds, cmdWord_op]
  decide

theorem sendAck (master : BitVec 7) (tos : BitVec 2) (dlc : BitVec 4) (msg : Message) : Statement (.sendAck master tos dlc msg) := by
  intro _
  simp only [Instr.row, encode, Row.holds, cmdWord_op]
  decide

theorem slaveInfoGet (slave : BitVec 7) : Statement (.slaveInfoGet slave) := by
  intro _
  simp only [Instr.row, encode, encodeCommand, Row.holds, cmdWord_op]
  decide

theorem handler : Statement .handler := by
  intro _
  simp only [Instr.row, encode, encodeCommand, Row.holds, cmdWord_op]
  decide

theorem reservedA : Statement .reservedA := by
  intro _
  simp only [Instr.row, encode, encodeCommand, Row.holds, cmdWord_op]
  decide

theorem reservedB : Statement .reservedB := by
  intro _
  simp only [Instr.row, encode, encodeCommand, Row.holds, cmdWord_op]
  decide

theorem reservedC : Statement .reservedC := by
  intro _
  simp only [Instr.row, encode, encodeCommand, Row.holds, cmdWord_op]
  decide

theorem reservedD : Statement .reservedD := by
  intro _
  simp only [Instr.row, encode, encodeCommand, Row.holds, cmdWord_op]
  decide

theorem reservedE : Statement .reservedE := by
  intro _
  simp only [Instr.row, encode, encodeCommand, Row.holds, cmdWord_op]
  decide

theorem reservedF : Statement .reservedF := by
  intro _
  simp only [Instr.row, encode, encodeCommand, Row.holds, cmdWord_op]
  decide

theorem etosLock (q : EtosOps) : Statement (.etosLock q) := by
  intro _
  simp only [Instr.row, encode, encodeEtos, mbnetFrame, Row.holds, etos_fixed]
  decide

theorem etosUnlock (q : EtosOps) : Statement (.etosUnlock q) := by
  intro _
  simp only [Instr.row, encode, encodeEtos, mbnetFrame, Row.holds, etos_fixed]
  decide

theorem etosReserved02 (q : EtosOps) : Statement (.etosReserved02 q) := by
  intro _
  simp only [Instr.row, encode, encodeEtos, mbnetFrame, Row.holds, etos_fixed]
  decide

theorem etosReserved03 (q : EtosOps) : Statement (.etosReserved03 q) := by
  intro _
  simp only [Instr.row, encode, encodeEtos, mbnetFrame, Row.holds, etos_fixed]
  decide

theorem etosInitHook (q : EtosOps) : Statement (.etosInitHook q) := by
  intro _
  simp only [Instr.row, encode, encodeEtos, mbnetFrame, Row.holds, etos_fixed]
  decide

theorem etosUnimplemented05 (q : EtosOps) : Statement (.etosUnimplemented05 q) := by
  intro _
  simp only [Instr.row, encode, encodeEtos, mbnetFrame, Row.holds, etos_fixed]
  decide

theorem etosNotifyEvent (q : EtosOps) : Statement (.etosNotifyEvent q) := by
  intro _
  simp only [Instr.row, encode, encodeEtos, mbnetFrame, Row.holds, etos_fixed]
  decide

theorem etosNotifySysex (q : EtosOps) : Statement (.etosNotifySysex q) := by
  intro _
  simp only [Instr.row, encode, encodeEtos, mbnetFrame, Row.holds, etos_fixed]
  decide

theorem etosDinToggle (q : EtosOps) : Statement (.etosDinToggle q) := by
  intro _
  simp only [Instr.row, encode, encodeEtos, mbnetFrame, Row.holds, etos_fixed]
  decide

theorem etosEncChange (q : EtosOps) : Statement (.etosEncChange q) := by
  intro _
  simp only [Instr.row, encode, encodeEtos, mbnetFrame, Row.holds, etos_fixed]
  decide

theorem etosAinChange (q : EtosOps) : Statement (.etosAinChange q) := by
  intro _
  simp only [Instr.row, encode, encodeEtos, mbnetFrame, Row.holds, etos_fixed]
  decide

theorem etosReserved0B (q : EtosOps) : Statement (.etosReserved0B q) := by
  intro _
  simp only [Instr.row, encode, encodeEtos, mbnetFrame, Row.holds, etos_fixed]
  decide

theorem etosReserved0C (q : EtosOps) : Statement (.etosReserved0C q) := by
  intro _
  simp only [Instr.row, encode, encodeEtos, mbnetFrame, Row.holds, etos_fixed]
  decide

theorem etosReserved0D (q : EtosOps) : Statement (.etosReserved0D q) := by
  intro _
  simp only [Instr.row, encode, encodeEtos, mbnetFrame, Row.holds, etos_fixed]
  decide

theorem etosReserved0E (q : EtosOps) : Statement (.etosReserved0E q) := by
  intro _
  simp only [Instr.row, encode, encodeEtos, mbnetFrame, Row.holds, etos_fixed]
  decide

theorem etosClone (q : EtosOps) : Statement (.etosClone q) := by
  intro _
  simp only [Instr.row, encode, encodeEtos, mbnetFrame, Row.holds, etos_fixed]
  decide

theorem etosApp1 (q : FrameOps) : Statement (.etosApp1 q) := by
  intro h
  have hl := etosLeads_bits q.control 3 (by decide) (Bool.and_eq_true_iff.1 h).2
  have hm : (0x00101801 : BitVec 29) = pack ⟨((0xF : BitVec 16) >>> 3 <<< 3) <<< 4, 3, 0, 0, 1⟩ := by decide
  simp only [Instr.row, encode, encodeFrame, mbnetFrame, Row.holds, hm, app_fixed _ _ _ _ _ hl]
  decide

theorem etosApp2 (q : FrameOps) : Statement (.etosApp2 q) := by
  intro h
  have hl := etosLeads_bits q.control 2 (by decide) (Bool.and_eq_true_iff.1 h).2
  have hm : (0x00181801 : BitVec 29) = pack ⟨((0xF : BitVec 16) >>> 2 <<< 2) <<< 4, 3, 0, 0, 1⟩ := by decide
  simp only [Instr.row, encode, encodeFrame, mbnetFrame, Row.holds, hm, app_fixed _ _ _ _ _ hl]
  decide

theorem etosApp3 (q : FrameOps) : Statement (.etosApp3 q) := by
  intro h
  have hl := etosLeads_bits q.control 1 (by decide) (Bool.and_eq_true_iff.1 h).2
  have hm : (0x001C1801 : BitVec 29) = pack ⟨((0xF : BitVec 16) >>> 1 <<< 1) <<< 4, 3, 0, 0, 1⟩ := by decide
  simp only [Instr.row, encode, encodeFrame, mbnetFrame, Row.holds, hm, app_fixed _ _ _ _ _ hl]
  decide

theorem etosApp4 (q : FrameOps) : Statement (.etosApp4 q) := by
  intro h
  have hl := etosLeads_bits q.control 0 (by decide) (Bool.and_eq_true_iff.1 h).2
  have hm : (0x001E1801 : BitVec 29) = pack ⟨((0xF : BitVec 16) >>> 0 <<< 0) <<< 4, 3, 0, 0, 1⟩ := by decide
  simp only [Instr.row, encode, encodeFrame, mbnetFrame, Row.holds, hm, app_fixed _ _ _ _ _ hl]
  decide

theorem ramRead (q : FrameOps) : Statement (.ramRead q) := by
  intro _
  simp only [Instr.row, encode, encodeFrame, mbnetFrame, Row.holds, frame_fixed]
  decide

theorem ramWrite (q : FrameOps) : Statement (.ramWrite q) := by
  intro _
  simp only [Instr.row, encode, encodeFrame, mbnetFrame, Row.holds, frame_fixed]
  decide

theorem ping (q : FrameOps) : Statement (.ping q) := by
  intro _
  simp only [Instr.row, encode, encodeFrame, mbnetFrame, Row.holds, frame_fixed]
  decide

theorem ackOk (q : FrameOps) : Statement (.ackOk q) := by
  intro _
  simp only [Instr.row, encode, encodeFrame, mbnetFrame, Row.holds, frame_fixed]
  decide

theorem ackRead (q : FrameOps) : Statement (.ackRead q) := by
  intro _
  simp only [Instr.row, encode, encodeFrame, mbnetFrame, Row.holds, frame_fixed]
  decide

theorem ackRetry (q : FrameOps) : Statement (.ackRetry q) := by
  intro _
  simp only [Instr.row, encode, encodeFrame, mbnetFrame, Row.holds, frame_fixed]
  decide

theorem ackError (q : FrameOps) : Statement (.ackError q) := by
  intro _
  simp only [Instr.row, encode, encodeFrame, mbnetFrame, Row.holds, frame_fixed]
  decide

end MatchesRow

end Sys2Proof.Laws
end

