-- ==== Sys2Proof/Tests/Slice0.lean ====
section
/-! SUPPORT. Tests: ill-formed terms refused, words written out from the encodings, one step of each
instruction on a small state (expected values from 95_test_vectors.md unless a comment says otherwise),
and, for each obligation with hypotheses, concrete states and operands that meet them (`test_hyp_`). -/

namespace Sys2Proof.Tests
open Sys2Proof Sys2Proof.Machine

/-! ### Helpers -/

/-- The message with these bytes, the rest zero. -/
def msg (bs : List Byte) : Message := Message.ofBytes bs

/-- The pong of the scenarios. -/
def pong : Message := msg [0x01, 0x53, 0x45, 0x51, 0x20, 0x04, 0x01, 0x00]

/-- A received frame `id/dlc[data]`. -/
def frame (id : BitVec 29) (dlc : BitVec 4) (bs : List Byte) : Frame := ⟨true, false, id, dlc, msg bs⟩

/-- The parameters of 95_test_vectors.md section 2.6, with a budget of 3, two slots in the table, queues
of depth 2 and two transmit slots. -/
def params : Params := ⟨3, 2, 1, 3, 2, 2, .dropNew, 2⟩

/-- After power-on. -/
def base : State := State.powerOn params

/-- A configured node. -/
def node (id : BitVec 7) : State := { base with configured := true, nodeId := id }

/-- Both transmit slots busy. -/
def full (s : State) : State := { s with tx := [.busy (frame 0x1802 0 []), .busy (frame 0x1804 0 [])] }

/-- PENDING of a PING to slave 0x05 from master 0x00. -/
def pinged (s : State) : State := { s with pending := ⟨true, 0x05, 0x0000180A, Message.zero, 0⟩ }

/-- HANDLER at DRAIN's poll with this request queued. -/
def draining (s : State) (f : Frame) : State := { s with run := some .drain, rq := [f] }

/-- WAIT_ACK at its poll for slave 0x05 with this acknowledge queued. -/
def waiting (s : State) (f : Frame) : State :=
  { s with run := some (.waitAck 0x05), budget := some 3, aq := [f] }

/-- The HOST issues a command. -/
def issuing (s : State) (cmd data : BitVec 64) : State := { s with host := [.command cmd data] }

/-- The next state of an outcome. -/
def nextOf : Host.Outcome State Fault Refusal → Option State
  | .next s => some s
  | .fault _ => none
  | .refused _ => none

/-- What a field is after one step. -/
def after {α : Type} (s : State) (v : State → α) : Option α := (nextOf (step s)).map v

/-- The instruction a decoded word is. -/
def decoded (w : Words) : Option Instr := (decode w).toOption

/-- The instruction a decoded command is. -/
def cmd (c : BitVec 64) : Option Instr := decoded (.command c 0)

/-- The instruction a decoded frame with `dlc = 0` is. -/
def rx (id : BitVec 29) : Option Instr := decoded (.frame (frame id 0 []))

/-! ### Ill-formed terms are refused -/

/-- A byte beyond the data length did not travel (00_scope.md R14). -/
theorem test_wf_refuses_payload_beyond_dlc :
    (Instr.ramRead ⟨0, 0, 5, 2, msg [1, 2, 3]⟩).wf = false ∧
    (Instr.etosLock ⟨0, 0, 5, 0, msg [1]⟩).wf = false ∧
    (Instr.ackOk ⟨5, 0, 0, 7, pong⟩).wf = true ∧
    (Instr.ackRead ⟨5, 0, 0, 7, msg [1, 2, 3, 4, 5, 6, 7, 8]⟩).wf = false := by decide

/-- The application rows fix the leading bits of the ETOS (30_encoding.md R76). -/
theorem test_wf_refuses_etos_lead :
    (Instr.etosApp1 ⟨0x7F, 0, 5, 0, Message.zero⟩).wf = false ∧
    (Instr.etosApp2 ⟨0x80, 0, 5, 0, Message.zero⟩).wf = false ∧
    (Instr.etosApp3 ⟨0x40, 0, 5, 0, Message.zero⟩).wf = false ∧
    (Instr.etosApp4 ⟨0x0F, 0, 5, 0, Message.zero⟩).wf = false ∧
    (Instr.etosApp4 ⟨0x1F, 0, 5, 0, Message.zero⟩).wf = true := by decide

/-! ### Words written out from the encodings (30_encoding.md R70, R74 to R81) -/

theorem test_decode_commands_0_to_7 :
    cmd 0x0 = some .init ∧ cmd 0x8001 = some (.nodeidSet 0x80) ∧
    cmd 0xFFFF0000FFFC0502 = some .nodeidGet ∧
    decoded (.command 0x0000123400010523 0xBBAA) =
      some (.sendReq 0x05 1 0x1234 2 (msg [0xAA, 0xBB])) ∧
    cmd 0x504 = some (.sendReqAgain 0x05) ∧ cmd 0xFF05 = some (.waitAckNb 0x7F) ∧
    cmd 0x506 = some (.waitAck 0x05) ∧
    decoded (.command 0x15027 0x3412) = some (.sendAck 0x50 1 2 (msg [0x12, 0x34])) := by decide

theorem test_decode_commands_8_to_F :
    cmd 0x108 = some (.slaveInfoGet 0x01) ∧ cmd 0x9 = some .handler ∧ cmd 0xA = some .reservedA ∧
    cmd 0xB = some .reservedB ∧ cmd 0xC = some .reservedC ∧ cmd 0xD = some .reservedD ∧
    cmd 0xE = some .reservedE ∧ cmd 0xF = some .reservedF := by decide

theorem test_decode_etos_00_to_07 :
    rx 0x0000020A = some (.etosLock ⟨0, 2, 5, 0, Message.zero⟩) ∧
    rx 0x0000220A = some (.etosUnlock ⟨0, 2, 5, 0, Message.zero⟩) ∧
    rx 0x0000400A = some (.etosReserved02 ⟨0, 0, 5, 0, Message.zero⟩) ∧
    rx 0x0000600A = some (.etosReserved03 ⟨0, 0, 5, 0, Message.zero⟩) ∧
    rx 0x0000810A = some (.etosInitHook ⟨0, 1, 5, 0, Message.zero⟩) ∧
    rx 0x0000A00A = some (.etosUnimplemented05 ⟨0, 0, 5, 0, Message.zero⟩) ∧
    rx 0x0000C00A = some (.etosNotifyEvent ⟨0, 0, 5, 0, Message.zero⟩) ∧
    rx 0x0020E00A = some (.etosNotifySysex ⟨1, 0, 5, 0, Message.zero⟩) := by decide

theorem test_decode_etos_08_to_0f :
    rx 0x0001000A = some (.etosDinToggle ⟨0, 0, 5, 0, Message.zero⟩) ∧
    rx 0x0001200A = some (.etosEncChange ⟨0, 0, 5, 0, Message.zero⟩) ∧
    rx 0x0001400A = some (.etosAinChange ⟨0, 0, 5, 0, Message.zero⟩) ∧
    rx 0x0001600A = some (.etosReserved0B ⟨0, 0, 5, 0, Message.zero⟩) ∧
    rx 0x0001800A = some (.etosReserved0C ⟨0, 0, 5, 0, Message.zero⟩) ∧
    rx 0x0001A00A = some (.etosReserved0D ⟨0, 0, 5, 0, Message.zero⟩) ∧
    rx 0x0001C00A = some (.etosReserved0E ⟨0, 0, 5, 0, Message.zero⟩) ∧
    rx 0x1FE1E7FE = some (.etosClone ⟨0xFF, 7, 0x7F, 0, Message.zero⟩) := by decide

theorem test_decode_applications :
    rx 0x003FE00A = some (.etosApp1 ⟨0x01FF, 0, 5, 0, Message.zero⟩) ∧
    rx 0x0010000A = some (.etosApp1 ⟨0x0080, 0, 5, 0, Message.zero⟩) ∧
    rx 0x000FE00A = some (.etosApp2 ⟨0x007F, 0, 5, 0, Message.zero⟩) ∧
    rx 0x0007E00A = some (.etosApp3 ⟨0x003F, 0, 5, 0, Message.zero⟩) ∧
    rx 0x0003E00A = some (.etosApp4 ⟨0x001F, 0, 5, 0, Message.zero⟩) ∧
    rx 0x0002020A = some (.etosApp4 ⟨0x0010, 2, 5, 0, Message.zero⟩) := by decide

theorem test_decode_requests_and_acknowledges :
    rx 0x00000D0A = some (.ramRead ⟨0, 5, 5, 0, Message.zero⟩) ∧
    rx 0x0020100A = some (.ramWrite ⟨0x0100, 0, 5, 0, Message.zero⟩) ∧
    rx 0x00001B0A = some (.ping ⟨0, 3, 5, 0, Message.zero⟩) ∧
    rx 0x0000A001 = some (.ackOk ⟨5, 0, 0, 0, Message.zero⟩) ∧
    rx 0x0000A8A1 = some (.ackRead ⟨5, 0, 0x50, 0, Message.zero⟩) ∧
    rx 0x0000B0A1 = some (.ackRetry ⟨5, 0, 0x50, 0, Message.zero⟩) ∧
    rx 0x0000B8A1 = some (.ackError ⟨5, 0, 0x50, 0, Message.zero⟩) := by decide

/-- Standard and remote frames are no MBNet frames (30_encoding.md R72). -/
theorem test_decode_refuses :
    decode (.frame { frame 0x180A 0 [] with ide := false }) = .error .standardFrame ∧
    decode (.frame { frame 0x180A 0 [] with rtr := true }) = .error .remoteFrame := ⟨rfl, rfl⟩

/-- The words of V-M5 and V-E1, encoded, and the assembler's line for V-E23. -/
theorem test_encode :
    encode (.sendReq 0x05 1 0x1234 2 (msg [0xAA, 0xBB])) = .command 0x0000123400010523 0xBBAA ∧
    encode (.etosLock ⟨0, 2, 5, 0, Message.zero⟩) = .frame (frame 0x0000020A 0 []) ∧
    assemble (.sendAck 0x50 .read 2 [0x12, 0x34]) = .command 0x15027 0x3412 := by decide

/-- The first word of every row of the table. -/
theorem test_table_rows :
    (List.range 16).map (fun w => (decodeTableWord 8 w).map Instr.row) =
      (List.range 16).map (fun w => some (Row.command (BitVec.ofNat 4 w))) ∧
    (List.range 16).map (fun k => (decodeTableWord 24 (k * 0x2000)).map Instr.row) =
      (List.range 16).map (fun k => some (Row.frame (BitVec.ofNat 29 (k * 0x2000)) 0x001FF801)) ∧
    [0x100000, 0x80000, 0x40000, 0x20000].map (fun w => (decodeTableWord 24 w).map Instr.row) =
      [some (.frame 0x100000 0x101801), some (.frame 0x80000 0x181801),
       some (.frame 0x40000 0x1C1801), some (.frame 0x20000 0x1E1801)] ∧
    [0x800, 0x1000, 0x1800, 0x1, 0x801, 0x1001, 0x1801].map
      (fun w => (decodeTableWord 16 w).map Instr.row) =
      [0x800, 0x1000, 0x1800, 0x1, 0x801, 0x1001, 0x1801].map
        (fun w => some (.frame w 0x1801)) := by decide

/-- A placed word runs in the very next step: a command, a request and an acknowledge. -/
theorem test_placed_words_run :
    (nextOf (step (base.withFetchWord 8 0x2))).map (fun s => s.res.word) = some 0xFF04 ∧
    (nextOf (step (base.withFetchWord 24 0x2000))).map (fun s => s.run) = some (some .drain) ∧
    (nextOf (step (base.withFetchWord 16 0x1801))).map (fun s => s.res.word) = some 0x30000 := by decide

/-! ### One step of each command -/

/-- V-N7 and V-N8: INIT resets the CORE's own state and keeps RQ. -/
theorem test_init :
    after (issuing { pinged (node 0x10) with
      slaveIndex := [.found 0, .absent, .unresolved 1], rq := [frame 0x1820 0 []] } 0x0 0) id =
    some { base with rq := [frame 0x1820 0 []], record := [.result Result.zero] } := by decide

/-- V-H4. -/
theorem test_init_in_call_refused :
    exec .init { base with outer := some ⟨.hook .din 0 Message.zero 2, some 0⟩ } =
      .refused .nestedInit := rfl

/-- V-N4 and V-N5. -/
theorem test_nodeidSet :
    after (issuing (node 0x05) 0x8001 0) (fun s => (s.nodeId, s.res.word)) = some (0x05, 0x8) ∧
    after (issuing base 0x7F01 0) (fun s => (s.nodeId, s.role, s.res.word)) =
      some (0x7F, .slave, 0) := by decide

/-- V-N1 and V-N3. -/
theorem test_nodeidGet :
    after (issuing base 0x2 0) (fun s => s.res.word) = some 0xFF04 ∧
    after (issuing (node 0x05) 0x2 0) (fun s => s.res.word) = some 0x0500 := by decide

/-- V-M5. -/
theorem test_sendReq :
    after (issuing (node 0x10) 0x0000123400010523 0xBBAA)
      (fun s => (s.txRecord, s.tx, s.pending, s.res.word)) =
    some ([frame 0x0246890A 2 [0xAA, 0xBB]], [.busy (frame 0x0246890A 2 [0xAA, 0xBB]), .free],
      ⟨true, 0x05, 0x0246890A, msg [0xAA, 0xBB], 2⟩, 0) := by decide

/-- V-M1, V-M3 and V-M4. -/
theorem test_sendReq_checks :
    after (issuing base 0x30503 0) (fun s => (s.txRecord, s.res.word)) = some ([], 0x4) ∧
    after (issuing (node 0x15) 0x30503 0) (fun s => (s.txRecord, s.res.word)) = some ([], 0x5) ∧
    after (issuing (node 0x00) 0x10593 0) (fun s => (s.txRecord, s.res.word)) = some ([], 0xB) := by
  decide

/-- V-M6 (for the PING of V-M2), and a Transmit that holds (40_codec.md R108). -/
theorem test_sendReqAgain :
    after (issuing (pinged (node 0x00)) 0x504 0) (fun s => (s.txRecord, s.res.word)) =
      some ([frame 0x180A 0 []], 0) ∧
    after (issuing (full (pinged (node 0x00))) 0x504 0) (fun s => (s.run, s.record)) =
      some (some (.sendReqAgain (frame 0x180A 0 [])), []) := by decide

/-- V-M7, V-M8 and V-M9. -/
theorem test_sendReqAgain_checks :
    after (issuing (pinged (node 0x00)) 0x604 0) (fun s => s.res.word) = some 0x6 ∧
    after (issuing (pinged (node 0x15)) 0x504 0) (fun s => s.res.word) = some 0x5 ∧
    after (issuing (node 0x00) 0x504 0) (fun s => s.res.word) = some 0x6 := by decide

/-- V-M11, V-M13 and V-M15. -/
theorem test_waitAckNb :
    after (issuing { node 0x00 with aq := [⟨true, false, 0xA001, 8, pong⟩] } 0x505 0)
      (fun s => (s.res.word, s.res.data, s.aq)) = some (0x80, pong, []) ∧
    after (issuing { node 0x50 with aq := [frame 0xB0A1 0 []] } 0x505 0) (fun s => s.res.word) =
      some 0x2 ∧
    after (issuing { node 0x50 with aq := [frame 0xA8A1 2 [0x12, 0x34]] } 0x505 0)
      (fun s => (s.res.word, s.res.data)) = some (0x10020, msg [0x12, 0x34]) := by decide

/-- V-M10, V-M12 and V-M16. -/
theorem test_waitAckNb_pending :
    after (issuing (node 0x00) 0x505 0) (fun s => s.res.word) = some 0x1 ∧
    after (issuing { node 0x00 with aq := [frame 0x4001 0 []] } 0x505 0)
      (fun s => (s.res.word, s.aq, s.logRecord)) = some (0x1, [], [frame 0x4001 0 []]) ∧
    after (issuing { node 0x00 with aq := [frame 0x100001 0 []] } 0x5 0)
      (fun s => (s.res.word, s.logRecord)) = some (0x1, [frame 0x100001 0 []]) := by decide

/-- V-W3, and the first poll of a budget of 3 (42_master_request.md R154). -/
theorem test_waitAck :
    after (issuing { pinged (node 0x00) with params := { params with ackPollBudget := 1 } } 0x506 0)
      (fun s => (s.run, s.budget, s.res.word, s.txRecord)) = some (none, none, 0x3, []) ∧
    after (issuing (pinged (node 0x00)) 0x506 0) (fun s => (s.run, s.budget, s.record)) =
      some (some (.waitAck 0x05), some 2, []) := by decide

/-- V-A1 and V-A6. -/
theorem test_sendAck :
    after (issuing (node 0x05) 0x87 0x0001042051455301) (fun s => (s.txRecord, s.res.word)) =
      some ([⟨true, false, 0xA001, 8, pong⟩], 0) ∧
    after (issuing (node 0x20) 0x1007 0) (fun s => s.txRecord) = some [frame 0x00040021 0 []] := by decide

/-- V-A2, V-A3, V-A4 and V-A7. -/
theorem test_sendAck_checks :
    after (issuing (node 0x05) 0x507 0) (fun s => (s.res.word, s.txRecord)) = some (0x7, []) ∧
    after (issuing base 0x7 0) (fun s => s.res.word) = some 0x4 ∧
    after (issuing (node 0x05) 0x97 0) (fun s => s.res.word) = some 0xB ∧
    after (issuing (node 0x05) 0xF07 0) (fun s => s.res.word) = some 0x7 := by decide

/-- V-S10 and V-S11. -/
theorem test_slaveInfoGet :
    after (issuing { node 0x00 with
      slaveIndex := [.found 0, .absent, .unresolved 0]
      slaveRecord := [⟨true, pong⟩, ⟨false, Message.zero⟩] } 0x108 0)
      (fun s => (s.res.word, s.res.data)) = some (0, pong) ∧
    after (issuing { node 0x00 with slaveIndex := [.found 0, .absent, .unresolved 0] } 0x208 0)
      (fun s => s.res.word) = some 0xA := by decide

/-- V-S12, V-S13 and V-S14. -/
theorem test_slaveInfoGet_checks :
    after (issuing (node 0x00) 0x408 0) (fun s => s.res.word) = some 0x9 ∧
    after (issuing (node 0x05) 0x108 0) (fun s => s.res.word) = some 0x5 ∧
    after (issuing base 0x108 0) (fun s => s.res.word) = some 0x4 := by decide

/-- V-H1 with V-S1, and V-S6: the own ID is skipped. -/
theorem test_handler :
    after (issuing (node 0x05) 0x9 0) (fun s => (s.res.word, s.txRecord, s.scanCursor, s.run)) =
      some (0, [], 0x01, none) ∧
    after (issuing { node 0x20 with
      params := { params with scanFirst := 0x20, scanLast := 0x21 }
      slaveIndex := [.unresolved 0, .unresolved 0], scanCursor := 0x20 } 0x9 0)
      (fun s => (s.scanCursor, s.run, s.txRecord)) =
      some (0x20, some (.probeWait 0x21 1), [frame 0x1A42 0 []]) := by decide

/-- V-S2's ping, and V-S8. -/
theorem test_handler_scan :
    after (issuing (node 0x00) 0x9 0) (fun s => (s.txRecord, s.pending.slaveId, s.scanCursor)) =
      some ([frame 0x1802 0 []], 0x01, 0x02) ∧
    after (issuing { node 0x00 with
      slaveIndex := [.unresolved 0, .absent, .unresolved 0], scanCursor := 0x02 } 0x9 0)
      (fun s => (s.txRecord, s.scanCursor, s.res.word)) = some ([], 0x03, 0) := by decide

/-- V-R1: only the result changes. -/
theorem test_reserved :
    [0xA, 0xB, 0xC, 0xD, 0xE, 0xF].map (fun c => after (issuing (node 0x05) c 0) id) =
      List.replicate 6 (some { node 0x05 with
        res := ⟨.illegalCommand, 0, 0, 0, Message.zero⟩
        record := [.result ⟨.illegalCommand, 0, 0, 0, Message.zero⟩] }) := by decide

/-! ### One step of each received frame -/

/-- V-D1, V-D4 and V-D5. -/
theorem test_lock :
    after (draining (node 0x05) (frame 0x020A 0 [])) (fun s => (s.locked, s.run)) =
      some (some 2, some (.reply (frame 0xA041 0 []))) ∧
    after (draining { node 0x05 with locked := some 2 } (frame 0x050A 0 []))
      (fun s => (s.locked, s.run)) = some (some 2, some (.reply (frame 0xB0A1 0 []))) ∧
    after (draining { node 0x05 with locked := some 2 } (frame 0x250A 0 []))
      (fun s => (s.locked, s.run)) = some (some 2, some (.reply (frame 0xB0A1 0 []))) := by decide

/-- V-D7. -/
theorem test_unlock :
    after (draining { node 0x05 with locked := some 2 } (frame 0x220A 0 []))
      (fun s => (s.locked, s.run)) = some (none, some (.reply (frame 0xA041 0 []))) := by decide

/-- V-E3, V-E5, V-E16 and V-E17, and the codes between them (44_dispatcher.md R228, R236). -/
theorem test_rejected_etos :
    [0x400A, 0x600A, 0xA00A, 0x1600A, 0x1800A, 0x1A00A, 0x1C00A, 0x1E00A].map
      (fun f => after (draining (node 0x05) (frame f 0 [])) (fun s => (s.run, s.callRecord))) =
    List.replicate 8 (some (some (.reply (frame 0xB801 0 [])), [])) := by decide

/-- V-E4. -/
theorem test_initHook :
    after (draining (node 0x05) (frame 0x810A 5 [1])) (fun s => (s.outer, s.callRecord)) =
      some (some ⟨.hook .init 0x10 (msg [1]) 5, some 0x10⟩, [.hook .init 0x10 (msg [1]) 5]) := by decide

/-- V-E6, V-E8, V-E10, V-E12 and V-E14. -/
theorem test_fixedLength_etos :
    after (draining (node 0x05) (frame 0xC00A 3 [0x90, 0x3C, 0x7F])) State.callRecord =
      some [.hook .event 0 (msg [0x90, 0x3C, 0x7F]) 3] ∧
    after (draining (node 0x05) (frame 0xE00A 1 [0xF0])) State.callRecord =
      some [.hook .sysex 0 (msg [0xF0]) 1] ∧
    after (draining (node 0x05) (frame 0x1000A 2 [])) State.callRecord =
      some [.hook .din 0 Message.zero 2] ∧
    after (draining (node 0x05) (frame 0x1200A 2 [])) State.callRecord =
      some [.hook .enc 0 Message.zero 2] ∧
    after (draining (node 0x05) (frame 0x1400A 3 [])) State.callRecord =
      some [.hook .ain 0 Message.zero 3] := by decide

/-- V-E7, V-E9, V-E11, V-E13 and V-E15. -/
theorem test_wrong_length_etos :
    [(0xC00A, 2), (0xE00A, 0), (0x1000A, 15), (0x1200A, 1), (0x1400A, 8)].map
      (fun x => after (draining (node 0x05) (frame x.1 x.2 [])) (fun s => (s.run, s.callRecord))) =
    List.replicate 5 (some (some (.reply (frame 0xB801 0 [])), [])) := by decide

/-- V-E18 and V-E19, and the two rows between them (44_dispatcher.md R239). -/
theorem test_applications :
    after (draining (node 0x05) (frame 0x2020A 4 [])) State.callRecord =
      some [.callback 0x20 0 0x0010 Message.zero 4] ∧
    after (draining (node 0x05) (frame 0x3FE00A 0 [])) State.callRecord =
      some [.callback 0x00 0 0x01FF Message.zero 0] ∧
    after (draining (node 0x05) (frame 0x8000A 0 [])) State.callRecord =
      some [.callback 0x00 0 0x0040 Message.zero 0] ∧
    after (draining (node 0x05) (frame 0x4000A 0 [])) State.callRecord =
      some [.callback 0x00 0 0x0020 Message.zero 0] := by decide

/-- V-E20, V-E21 and V-E22. -/
theorem test_forwarded_requests :
    after (draining (node 0x05) (frame 0xD0A 0 [])) State.callRecord =
      some [.callback 0x50 1 0 Message.zero 0] ∧
    after (draining (node 0x05) (frame 0x20100A 1 [0x7E])) State.callRecord =
      some [.callback 0x00 2 0x0100 (msg [0x7E]) 1] ∧
    after (draining (node 0x05) (frame 0x1B0A 0 [])) State.callRecord =
      some [.callback 0x30 3 0 Message.zero 0] := by decide

/-- V-D3 and V-D8: the lock check comes first. -/
theorem test_locked_out :
    after (draining { node 0x05 with locked := some 2 } (frame 0xD0A 0 []))
      (fun s => (s.run, s.callRecord, s.locked)) =
      some (some (.reply (frame 0xB0A1 0 [])), [], some 2) ∧
    after (draining { node 0x05 with locked := some 2 } (frame 0xC50A 2 []))
      (fun s => (s.run, s.callRecord, s.locked)) =
      some (some (.reply (frame 0xB0A1 0 [])), [], some 2) := by decide

/-- V-W2, and the READ and ERROR of V-M15 and V-M14 at WAIT_ACK's poll. -/
theorem test_ack_ends_waitAck :
    after (waiting (pinged (node 0x00)) ⟨true, false, 0xA001, 8, pong⟩)
      (fun s => (s.res.word, s.res.data, s.budget)) = some (0x80, pong, none) ∧
    after (waiting (pinged (node 0x50)) (frame 0xA8A1 2 [0x12, 0x34])) (fun s => s.res.word) =
      some 0x10020 ∧
    after (waiting (pinged (node 0x50)) (frame 0xB8A1 0 [])) (fun s => s.res.word) = some 0x30000 := by
  decide

/-- V-W4's first resend, V-W6 and V-W9. -/
theorem test_ackRetry :
    after (waiting (pinged (node 0x00)) (frame 0xB001 0 [])) (fun s => s.run) =
      some (some (.waitAckResend 0x05 (frame 0x180A 0 []))) ∧
    after (waiting { node 0x00 with pending := ⟨true, 0x06, 0x180C, Message.zero, 0⟩ }
      (frame 0xB001 0 [])) (fun s => (s.res.word, s.txRecord)) = some (0x6, []) ∧
    after (waiting (node 0x05) (frame 0xB00B 0 [])) (fun s => s.res.word) = some 0x5 := by decide

/-- V-S2 and V-S3: the answer is recorded, or the table is full. -/
theorem test_ack_ends_probe :
    after { node 0x00 with
      run := some (.probeWait 1 1), budget := some 3
      aq := [⟨true, false, 0x2001, 8, pong⟩] } (fun s => (s.slaveIndex, s.slaveRecord, s.run)) =
      some ([.found 0, .unresolved 0, .unresolved 0], [⟨true, pong⟩, ⟨false, Message.zero⟩],
        some .drain) ∧
    after { node 0x00 with
      run := some (.probeWait 2 1), budget := some 3
      slaveIndex := [.found 0, .unresolved 0, .unresolved 0], slaveRecord := [⟨true, pong⟩]
      aq := [frame 0x4001 0 []] } (fun s => s.slaveIndex) =
      some [.found 0, .absent, .unresolved 0] := by decide

/-! ### The filters and the BUS -/

/-- V-F1 to V-F9. -/
theorem test_filter :
    base.filterMatch (frame 0x180A 0 []) = .drop ∧ (node 0x05).filterMatch (frame 0x180A 0 []) = .toRq ∧
    (node 0x05).filterMatch (frame 0xA00B 0 []) = .toAq ∧
    (node 0x05).filterMatch (frame 0xA001 0 []) = .drop ∧
    (node 0x05).filterMatch { frame 0x180A 0 [] with ide := false } = .drop ∧
    (node 0x05).filterMatch { frame 0x180A 0 [] with rtr := true } = .drop ∧
    (node 0x7F).filterMatch (frame 0xFE 0 []) = .toRq ∧ (node 0x7F).filterMatch (frame 0xFF 0 []) = .toAq ∧
    (node 0x00).filterMatch (frame 0x1FFFFF00 0 []) = .toRq ∧
    (node 0x05).filterMatch (frame 0x500 0 []) = .drop := by decide

/-- V-F10 and V-F12. -/
theorem test_deliver :
    after { node 0x05 with bus := [.deliver (frame 0x180A 3 [0x11, 0x22, 0x33, 0x44])] }
      (fun s => s.rq) = some [frame 0x180A 3 [0x11, 0x22, 0x33]] ∧
    after { node 0x05 with rq := [frame 0xA 0 [], frame 0xA 1 []], bus := [.deliver (frame 0xA 2 [])] }
      (fun s => s.rq) = some [frame 0xA 0 [], frame 0xA 1 []] ∧
    after { node 0x05 with
      params := { params with rxqOverrun := .dropOldest }
      rq := [frame 0xA 0 [], frame 0xA 1 []], bus := [.deliver (frame 0xA 2 [])] }
      (fun s => s.rq) = some [frame 0xA 1 [], frame 0xA 2 []] := by decide

/-- A BUS list at its end lets the CORE step and begins again with the cycle (00_scope.md R10, R11; log 1). -/
theorem test_bus_cycle :
    after { base with busCycle := [.sent 0] } (fun s => (s.bus, s.busCycle)) =
      some ([.sent 0], [.sent 0]) := by decide

/-- 40_codec.md R109. -/
theorem test_sent :
    after { full base with bus := [.sent 1] } (fun s => (s.tx, s.wire)) =
      some ([.busy (frame 0x1802 0 []), .free], [frame 0x1804 0 []]) := by decide

/-! ### States and operands that meet the hypotheses of the obligations, clause by clause -/

/-- A master that probes candidate 2: 1 is Found, the ping is in a slot, its answer is queued. -/
def probing : State :=
  { node 0x00 with
    pending := ⟨true, 0x02, 0x00001804, Message.zero, 0⟩
    slaveIndex := [.found 0, .unresolved 0, .unresolved 0]
    slaveRecord := [⟨true, pong⟩, ⟨false, Message.zero⟩]
    scanCursor := 0x03
    budget := some 3
    run := some (.probeWait 0x02 1)
    aq := [⟨true, false, 0x00004001, 8, pong⟩]
    tx := [.busy (frame 0x00001804 0 []), .free]
    record := [.transmit (frame 0x00001804 0 [])] }

/-- A slave locked by the master of slot 2, in HANDLER's drain, with a RAM_READ of that master queued. -/
def locked : State :=
  { node 0x05 with locked := some 2, run := some .drain, rq := [frame 0x00000A0A 0 []] }

/-- The callback of that RAM_READ. -/
def lockedCall : CallEvent := .callback 0x20 1 0 Message.zero 0

/-- `locked` after its next step. -/
def lockedNext : State :=
  { node 0x05 with
    locked := some 2
    outer := some ⟨lockedCall, none⟩
    record := [.call lockedCall] }

/-- A HOST-visible callback that is running. -/
def inCall : State := { node 0x05 with outer := some ⟨lockedCall, none⟩ }

theorem test_hyp_DecodeEncodeRoundTrip :
    Instr.WellFormed (.etosApp4 ⟨0xFF1F, 7, 0x7F, 15, msg [1, 2, 3, 4, 5, 6, 7, 8]⟩) ∧
    Instr.WellFormed (.etosClone ⟨0xFF, 7, 0x7F, 0, Message.zero⟩) := by decide

theorem test_hyp_FrameDecodeLosesNothing :
    decode (.frame (frame 0x1FE1E7FE 9 [1])) = .ok (.etosClone ⟨0xFF, 7, 0x7F, 9, msg [1]⟩) := rfl

theorem test_hyp_CommandBitsRead :
    ((0xFFFF0000FFFC0502 : BitVec 64) &&& 0x0000FFFF0003FFFF = 0x502 &&& 0x0000FFFF0003FFFF) ∧
    ((0x8504 : BitVec 64).extractLsb' 0 4 ≠ 1 ∧
      (0x8504 : BitVec 64) &&& 0x0000FFFF00037FFF = 0x504 &&& 0x0000FFFF00037FFF) ∧
    ((0x506 : BitVec 64).extractLsb' 0 4 ≠ 3 ∧ (0x506 : BitVec 64).extractLsb' 0 4 ≠ 7) := by decide

theorem test_hyp_DecoderFollowsTable :
    decode (.frame (frame 0x00100000 0 [])) = .ok (.etosApp1 ⟨0x80, 0, 0, 0, Message.zero⟩) ∧
    (Instr.etosApp1 ⟨0, 1, 1, 0, Message.zero⟩).row.holds (.frame (frame 0x00100000 0 [])) = true :=
  ⟨rfl, rfl⟩

theorem test_hyp_PayloadBytes : (0 : BitVec 4).toNat ≤ 8 ∧ (8 : BitVec 4).toNat ≤ 8 := by decide

theorem test_hyp_FilterRoutes :
    base.run = none ∧ base.configured = false ∧ (0 : BitVec 8).toNat < 128 ∧
    (0x7F : BitVec 8).toNat < 128 := by decide

theorem test_hyp_BusDelivers :
    let f := frame 0x0000000A 0 []
    let a := frame 0x0000000B 0 []
    let q := [frame 0x0000000A 1 [], frame 0x0000000A 2 []]
    let old := { params with rxqOverrun := .dropOldest }
    (base.filterMatch f = .drop) ∧
    ((node 5).filterMatch f = .toRq ∧ (node 5).filterMatch a = .toAq) ∧
    ([frame 0x0000000A 1 []].length < params.rxqDepth) ∧
    (params.rxqDepth ≤ q.length ∧ params.rxqOverrun = .dropNew) ∧
    (old.rxqDepth ≤ q.length ∧ old.rxqOverrun = .dropOldest) ∧
    ({ node 5 with params := old, bus := [.deliver f] } : State).filterMatch f = .toRq := by decide

theorem test_hyp_BusSends :
    (full base).tx[1]? = some (.busy (frame 0x1804 0 [])) ∧ base.tx[1]? = some .free ∧
    base.tx[2]? = none := by decide

/-- A state with one slot that keeps a frame in it and one on the wire. -/
def oneSlot : State :=
  { base with
    params := { params with txSlots := 1 }
    tx := [.busy (frame 0x1804 0 [])]
    wire := [frame 0x1802 0 []]
    record := [.transmit (frame 0x1802 0 []), .transmit (frame 0x1804 0 [])]
    bus := [.sent 0] }

theorem test_hyp_SingleSlotOrder :
    oneSlot.params.txSlots = 1 ∧ oneSlot.tx.length = 1 ∧
    oneSlot.wire ++ busyFrames oneSlot.tx = oneSlot.txRecord ∧
    Next oneSlot { oneSlot with
      tx := [.free], wire := [frame 0x1802 0 [], frame 0x1804 0 []], bus := [] } :=
  ⟨rfl, rfl, rfl, rfl⟩

theorem test_hyp_StepRunsDecoded :
    Quiet base [] ∧ Quiet { base with busCycle := [.sent 0] } [.sent 0] ∧ Quiet { base with bus := [.yield, .sent 0] } [.sent 0] ∧
    ((issuing base 0x2 0).run = none ∧ (issuing base 0x2 0).host = .command 0x2 0 :: [] ∧
      decode (.command 0x2 0) = .ok .nodeidGet) ∧
    (locked.run = some .drain ∧ locked.rq = frame 0x00000A0A 0 [] :: [] ∧
      decode (.frame (frame 0x00000A0A 0 [])) = .ok (.ramRead ⟨0, 2, 5, 0, Message.zero⟩)) ∧
    ((waiting (node 0) (frame 0xA001 0 [])).run = some (.waitAck 5) ∧
      (waiting (node 0) (frame 0xA001 0 [])).aq = frame 0xA001 0 [] :: [] ∧
      decode (.frame (frame 0xA001 0 [])) = .ok (.ackOk ⟨5, 0, 0, 0, Message.zero⟩)) ∧
    (probing.run = some (.probeWait 2 1) ∧
      decode (.frame ⟨true, false, 0x00004001, 8, pong⟩) = .ok (.ackOk ⟨2, 0, 0, 8, pong⟩)) :=
  ⟨.inl ⟨rfl, rfl⟩, .inl ⟨rfl, rfl⟩, .inr rfl, ⟨rfl, rfl, rfl⟩, ⟨rfl, rfl, rfl⟩, ⟨rfl, rfl, rfl⟩, rfl, rfl⟩

theorem test_hyp_PlacedWordRuns :
    decodeTableWord 8 0x9 = some .handler ∧ decodeTableWord 33 0x9 = some .handler ∧
    (decodeTableWord 9 0x800 = some (.ramRead ⟨0, 0, 0, 0, Message.zero⟩) ∧
      (BitVec.ofNat 29 0x800).getLsbD 0 = false) ∧
    (decodeTableWord 32 0x801 = some (.ackRead ⟨0, 0, 0, 0, Message.zero⟩) ∧
      (BitVec.ofNat 29 0x801).getLsbD 0 = true) := by decide

theorem test_hyp_InitResets :
    (node 0x10).run = none ∧ (node 0x10).outer = none ∧ inCall.run = none ∧
    inCall.outer = some ⟨lockedCall, none⟩ := by decide

theorem test_hyp_NodeidSetResult :
    base.run = none ∧ 128 ≤ (0x80 : BitVec 8).toNat ∧ (0x7F : BitVec 8).toNat < 128 := by decide

theorem test_hyp_NodeidGetResult :
    base.run = none ∧ base.configured = false ∧ (node 5).run = none ∧ (node 5).configured = true := by
  decide

theorem test_hyp_SendReqResult :
    (base.run = none ∧ base.configured = false) ∧
    ((node 0x15).run = none ∧ (node 0x15).configured = true ∧ (node 0x15).nodeId.extractLsb' 0 4 ≠ 0) ∧
    ((node 0x10).run = none ∧ (node 0x10).configured = true ∧ (node 0x10).nodeId.extractLsb' 0 4 = 0) ∧
    (8 < (9 : BitVec 4).toNat ∧ (8 : BitVec 4).toNat ≤ 8) ∧
    LowestFree (node 0x10).tx 0 ∧ NoneFree (full (node 0x10)).tx := by decide

theorem test_hyp_SendReqAgainResult :
    ((pinged base).run = none ∧ (pinged base).configured = false) ∧
    ((pinged (node 0x15)).configured = true ∧ (pinged (node 0x15)).nodeId.extractLsb' 0 4 ≠ 0) ∧
    ((node 0x10).configured = true ∧ (node 0x10).nodeId.extractLsb' 0 4 = 0 ∧
      (node 0x10).pending.valid = false ∧ (pinged (node 0x10)).pending.slaveId ≠ 0x06) ∧
    ((pinged (node 0x10)).pending.valid = true ∧ (pinged (node 0x10)).pending.slaveId = 0x05 ∧
      LowestFree (pinged (node 0x10)).tx 0 ∧ NoneFree (full (pinged (node 0x10))).tx) := by decide

theorem test_hyp_ResendIsBitIdentical :
    ((node 0x10).run = none ∧ (node 0x10).configured = true ∧
      (node 0x10).nodeId.extractLsb' 0 4 = 0 ∧ (8 : BitVec 4).toNat ≤ 8 ∧ LowestFree (node 0x10).tx 0) ∧
    ((pinged (node 0x20)).run = none ∧ (pinged (node 0x20)).configured = true ∧
      (pinged (node 0x20)).nodeId.extractLsb' 0 4 = 0 ∧ LowestFree (pinged (node 0x20)).tx 0) ∧
    (nextOf (exec (.sendReq 0x05 3 0 0 Message.zero) (node 0x00))).map State.pending =
      some (pinged (node 0x20)).pending := by decide

theorem test_hyp_WaitAckNbResult :
    ((node 0).run = none ∧ (node 0).aq = []) ∧
    ¬ IsFrom 5 ((0x00004001 : BitVec 29).extractLsb' 13 16) ∧
    (IsFrom 5 ((0x0000B001 : BitVec 29).extractLsb' 13 16) ∧
      (0x0000B001 : BitVec 29).extractLsb' 11 2 = (2 : BitVec 2)) ∧
    (IsFrom 5 ((0x0000B801 : BitVec 29).extractLsb' 13 16) ∧
      (0x0000B801 : BitVec 29).extractLsb' 11 2 ≠ (2 : BitVec 2)) := by decide

theorem test_hyp_WaitAckStarts :
    ((node 0).run = none ∧ (node 0).aq = [] ∧ 1 < (node 0).params.ackPollBudget) ∧
    { params with ackPollBudget := 1 }.ackPollBudget = 1 ∧
    (IsFrom 5 ((frame 0xB801 0 []).id.extractLsb' 13 16) ∧
      (frame 0xB801 0 []).id.extractLsb' 11 2 ≠ (2 : BitVec 2)) ∧
    ((frame 0xB001 0 []).id.getLsbD 0 = true ∧
      decoded (.frame (frame 0xB001 0 [])) = some (.ackRetry ⟨5, 0, 0, 0, Message.zero⟩)) := by decide

theorem test_hyp_EmptyPoll :
    let w : State := { waiting (node 0) (frame 0 0 []) with aq := [] }
    let p : State := { probing with aq := [] }
    (Quiet w [] ∧ w.aq = [] ∧ w.budget = some 3 ∧ w.run = some (.waitAck 5)) ∧
    (Quiet p [] ∧ p.aq = [] ∧ p.budget = some 3 ∧ p.run = some (.probeWait 2 1)) ∧
    ({ w with budget := some 1 } : State).budget = some 1 ∧ 1 < 2 := by decide

theorem test_hyp_AckAtWaitAck :
    (waiting base (frame 0 0 [])).run = some (.waitAck 5) ∧ IsFrom 5 5 ∧ ¬ IsFrom 5 0x85 ∧
    (waiting base (frame 0 0 [])).configured = false ∧
    ((node 0x15).configured = true ∧ (node 0x15).nodeId.extractLsb' 0 4 ≠ 0) ∧
    ((node 0x10).configured = true ∧ (node 0x10).nodeId.extractLsb' 0 4 = 0 ∧
      (node 0x10).pending.valid = false) ∧
    ((pinged (node 0x10)).pending.valid = true ∧ (pinged (node 0x10)).pending.slaveId = 5) ∧
    (waiting (pinged (node 0x10)) (frame 0 0 [])).budget = some 3 := by decide

theorem test_hyp_AckAtProbe :
    (probing.run = some (.probeWait 2 1) ∧ IsFrom 2 2 ∧ ¬ IsFrom 2 0x82) ∧
    FirstFree probing.slaveRecord 1 ∧ TableFull [⟨true, pong⟩] ∧
    (probing.isMaster = true ∧ probing.pending.valid = true ∧ probing.pending.slaveId = 2) ∧
    probing.budget = some 3 ∧ ({ probing with budget := some 1 } : State).budget = some 1 := by decide

theorem test_hyp_TransmitStep :
    let f := frame 0x180A 0 []
    ∀ p ∈ [Point.sendReq 5 f, .sendReqAgain f, .sendAck f, .waitAckResend 5 f, .probeSend 5 1 f,
      .probeResend 5 1 f, .reply f], p.frame? = some f ∧
        ({ node 0 with run := some p } : State).run = some p ∧
        Quiet ({ node 0 with run := some p } : State) [] ∧
        LowestFree (node 0).tx 0 ∧ NoneFree (full (node 0)).tx := by decide

theorem test_hyp_SendAckResult :
    (base.run = none ∧ base.configured = false) ∧
    ((node 5).run = none ∧ (node 5).configured = true ∧ (0x0F : BitVec 7).extractLsb' 0 4 ≠ 0#4) ∧
    ((0x70 : BitVec 7).extractLsb' 0 4 = 0#4 ∧ 8 < (9 : BitVec 4).toNat ∧ (8 : BitVec 4).toNat ≤ 8) ∧
    LowestFree (node 5).tx 0 ∧ NoneFree (full (node 5)).tx := by decide

theorem test_hyp_SlaveInfoGetResult :
    let s : State := { probing with run := none }
    (base.run = none ∧ base.configured = false) ∧
    ((node 0x15).configured = true ∧ (node 0x15).nodeId.extractLsb' 0 4 ≠ 0) ∧
    (s.run = none ∧ s.configured = true ∧ s.nodeId.extractLsb' 0 4 = 0 ∧
      (0 : BitVec 7).toNat < s.params.scanFirst.toNat ∧ s.params.scanLast.toNat < (4 : BitVec 7).toNat) ∧
    (s.params.scanFirst.toNat ≤ (1 : BitVec 7).toNat ∧ (3 : BitVec 7).toNat ≤ s.params.scanLast.toNat ∧
      s.slaveIndex[(3 : BitVec 7).toNat - s.params.scanFirst.toNat]? = some (.unresolved 0) ∧
      s.slaveIndex[(1 : BitVec 7).toNat - s.params.scanFirst.toNat]? = some (.found 0) ∧
      s.slaveRecord[0]? = some ⟨true, pong⟩) := by decide

theorem test_hyp_SuccCyclesInRange :
    ({ params with scanFirst := 3 } : Params).scanFirst = ({ params with scanFirst := 3 } : Params).scanLast ∧
    (params.scanFirst.toNat ≤ (1 : BitVec 7).toNat ∧ (3 : BitVec 7).toNat ≤ params.scanLast.toNat) ∧
    (2 : BitVec 7) ≠ params.scanLast := by decide

theorem test_hyp_HandlerWithoutScan :
    (inCall.run = none ∧ inCall.outer = some ⟨lockedCall, none⟩) ∧
    ((node 5).run = none ∧ (node 5).outer = none ∧ (node 5).nodeId.extractLsb' 0 4 ≠ 0 ∧
      (node 5).rq = [] ∧ locked.rq ≠ []) ∧ base.configured = false := by decide

theorem test_hyp_HandlerScans :
    ((node 0).run = none ∧ (node 0).outer = none ∧ (node 0).configured = true ∧
      (node 0).nodeId.extractLsb' 0 4 = 0 ∧ (1 : BitVec 7) =
        (if (node 0).scanCursor = (node 0).nodeId then
          candidateSucc (node 0).params (node 0).scanCursor else (node 0).scanCursor) ∧
      (1 : BitVec 7) ≠ (node 0).nodeId ∧ (node 0).indexOf 1 = some (.unresolved 0) ∧
      LowestFree (node 0).tx 0 ∧ NoneFree (full (node 0)).tx) ∧
    ({ node 0 with slaveIndex := [.absent, .absent, .absent] } : State).indexOf 1 = some .absent ∧
    probing.indexOf 1 = some (.found 0) ∧
    ((node 0).rq = [] ∧ locked.rq ≠ []) ∧
    ({ node 0x20 with params := { params with scanFirst := 0x20, scanLast := 0x20 } } : State).nodeId =
      candidateSucc { params with scanFirst := 0x20, scanLast := 0x20 } 0x20 := by decide

theorem test_hyp_DrainOnEmptyQueue :
    let s : State := { locked with rq := [] }
    Quiet s [] ∧ s.run = some .drain ∧ s.rq = [] ∧ s.locked = some 2 ∧
    ({ s with locked := none } : State).locked = none := by decide

theorem test_hyp_ReservedCommandsIllegal :
    base.run = none ∧ 10 ≤ ((0xA : BitVec 64).extractLsb' 0 4).toNat := by decide

/-- Admits, while unlocked and while locked by the sender: LockAndUnlock, RejectedEtos, InitHookRequest,
FixedLengthEtos (its length 3 and another one) and ForwardedRequests. -/
theorem test_hyp_LockAndUnlock_RejectedEtos_InitHookRequest_FixedLengthEtos_ForwardedRequests :
    Admits locked 2 ∧ Admits { locked with locked := none } 7 ∧ (3 : BitVec 4).toNat = 3 ∧
    (2 : BitVec 4).toNat ≠ 3 := by decide

theorem test_hyp_LockedOutRequests :
    (requestMs (.ramRead ⟨0, 5, 5, 0, Message.zero⟩) = some 5 ∧ locked.run = some .drain ∧
      locked.locked = some 2 ∧ (5 : BitVec 3) ≠ 2) ∧
    locked.configured = true ∧ locked.nodeId = 0x05 := by decide

theorem test_hyp_StepNeverFaults : QueueInv probing ∧ QueueInv locked := by decide

theorem test_hyp_ErrorHasNoSideEffect :
    (node 5).run = none ∧
    exec .reservedA (node 5) = .next { node 5 with
      res := ⟨.illegalCommand, 0, 0, 0, Message.zero⟩
      record := [.result ⟨.illegalCommand, 0, 0, 0, Message.zero⟩] } ∧
    3 ≤ Status.illegalCommand.code.toNat := ⟨rfl, rfl, by decide⟩

/-- The invariants hold of the probing machine, which has a next state. -/
theorem test_hyp_TableInvKept : TableInv probing := by
  refine ⟨by decide, rfl, rfl, ?_, ?_, ?_, rfl, ?_⟩
  · simp [probing, EntryOk, node, base, State.powerOn, params]
  · have h : ∀ j i : Nat, probing.slaveIndex[j]? = some (.found i) → j = 0 := by
      rintro (_ | _ | _ | j) i hj
      · rfl
      all_goals cases hj
    intro j k i hj hk
    rw [h j i hj, h k i hk]
  · rintro (_ | _ | i)
    · exact ⟨fun _ => ⟨0, rfl⟩, fun _ => ⟨pong, rfl⟩⟩
    · refine ⟨fun ⟨_, h⟩ => by simp [probing] at h, ?_⟩
      rintro ⟨_ | _ | _ | j, h⟩ <;> simp [probing] at h
    · refine ⟨fun ⟨_, h⟩ => by simp [probing] at h, ?_⟩
      rintro ⟨_ | _ | _ | j, h⟩ <;> simp [probing] at h
  · intro p c n hp hc
    cases hp
    cases hc
    exact ⟨rfl, 0, rfl, rfl⟩

theorem test_hyp_ControlInvKept : ControlInv probing ∧ ControlInv locked := by
  refine ⟨⟨by decide, ?_, ?_, ?_, ?_, ?_⟩, ⟨by decide, ?_, ?_, ?_, ?_, ?_⟩⟩
  · intro p _ h; cases h
  · intro m h; cases h
  · exact ⟨fun _ => ⟨_, rfl, rfl⟩, fun _ => rfl⟩
  · intro b h; cases h; decide
  · intro h m hh; cases hh
  · intro p _ h; cases h
  · intro m _; exact .inr ⟨_, rfl, rfl⟩
  · exact ⟨nofun, fun ⟨p, hp, hw⟩ => by cases hp; cases hw⟩
  · intro b h; cases h
  · intro h m hh; cases hh

theorem test_hyp_ProbeInvKept : ProbeInv probing := by
  refine ⟨fun _ _ _ _ _ => rfl, ?_, ?_⟩
  · intro p c n hp hc _
    cases hp
    cases hc
    exact ⟨rfl, rfl⟩
  · intro c n f h
    cases h

theorem test_hyp_FrameInvKept : FrameInv probing := by
  refine ⟨by decide, ?_, by decide, by decide, fun _ => ⟨rfl, rfl⟩, ?_, ?_⟩
  · intro p f hp hf
    cases hp
    cases hf
  · intro slave f h
    cases h
  · intro c n f h
    cases h

theorem test_hyp_QueueInvKept_WireInvKept_StateWriters :
    QueueInv probing ∧ WireInv probing ∧
    Next probing { probing with
      slaveIndex := [.found 0, .found 1, .unresolved 0]
      slaveRecord := [⟨true, pong⟩, ⟨true, pong⟩]
      budget := none, run := some .drain, aq := [] } :=
  ⟨by decide, ⟨rfl, by decide⟩, rfl⟩

theorem test_hyp_EntryTransitions : ∀ u, probing.runs ≠ some (.init, u) := by
  intro u h
  have h' : probing.runs.map Prod.fst = some .init := by rw [h]; rfl
  exact absurd h' (by decide)

theorem test_hyp_LockLifetime : ControlInv locked ∧ Next locked lockedNext ∧ locked.locked = some 2 :=
  ⟨test_hyp_ControlInvKept.2, rfl, rfl⟩

theorem test_hyp_LockedCallsAreHolders :
    Reaches locked lockedNext ∧ (∀ u, Reaches locked u → Reaches u lockedNext → u.locked = some 2) ∧
    lockedNext.callRecord = [lockedCall] := by
  refine ⟨.tail .refl rfl, fun u hu hut => ?_, rfl⟩
  clear hut
  suffices u = locked ∨ u = lockedNext by rcases this with rfl | rfl <;> rfl
  induction hu with
  | refl => exact .inl rfl
  | tail _ hn ih =>
    rcases ih with rfl | rfl
    · cases (show step locked = .next lockedNext from rfl).symm.trans hn; exact .inr rfl
    · cases (show step lockedNext = .next lockedNext from rfl).symm.trans hn; exact .inr rfl

/-- A BUS that delivers a RETRY from slave 0x05 for ever and takes slot 0 to the wire. -/
def retrying (p : Point) : State :=
  { pinged (node 0) with
    run := some p
    budget := some 1
    aq := [frame 0xB001 0 []]
    bus := [.deliver (frame 0xB001 0 []), .sent 0]
    busCycle := [.deliver (frame 0xB001 0 []), .sent 0] }

/-- V-H3's hold, clause by clause: an ended run whose BUS goes on; the locked handler; a Transmit hang; a
lock whose holder only reads; endless RETRY at WAIT_ACK and at the probe; a callback that never returns. -/
theorem test_hyp_HangsHaveNoEnd :
    let e : State := { node 5 with host := [.ret 0], busCycle := [.deliver (frame 0xA 0 [])] }
    let h : State := { base with locked := some 2, run := some .drain, bus := [.deliver (frame 0 0 [])] }
    let f : State := { full (node 0) with
      run := some (.sendReqAgain (frame 0x180A 0 [])), busCycle := [.deliver (frame 0x0 0 [])] }
    (e.Ended ∧ Reaches e { e with host := [], bus := [.deliver (frame 0xA 0 [])] }) ∧
    (h.configured = false ∧ h.run = some .drain ∧ h.rq = [] ∧ h.locked = some 2 ∧
      Reaches h { h with bus := [] }) ∧
    (f.run = some (.sendReqAgain (frame 0x180A 0 [])) ∧ NoneFree f.tx ∧ NeverSends f) ∧
    (ControlInv locked ∧ locked.locked = some 2 ∧ NeverUnlocks 2 locked) ∧
    (∀ p ∈ [Point.waitAck 5, .probeWait 5 1], let s := retrying p
      s.run = some p ∧ s.isMaster = true ∧ s.pending.valid = true ∧ s.pending.slaveId = 5 ∧
      s.filterMatch (frame 0xB001 0 []) = .toAq ∧ IsRetry 5 (receivedFrame (frame 0xB001 0 [])) ∧
      (∀ g ∈ s.aq, IsRetry 5 g) ∧ 1 ≤ s.params.rxqDepth ∧ s.tx ≠ []) ∧
    (inCall.outer.isSome = true ∧ (∀ v, .ret v ∉ inCall.host) ∧ inCall.run = none ∧ inCall.host = []) := by
  refine ⟨⟨by decide, .tail .refl rfl⟩, ⟨rfl, rfl, rfl, rfl, .tail .refl rfl⟩, ⟨rfl, by decide, ?_⟩,
    ⟨test_hyp_ControlInvKept.2, rfl, by decide, ?_⟩, by decide, rfl, ?_, rfl, rfl⟩
  · exact fun k => ⟨List.not_mem_nil, by simp⟩
  · exact fun _ _ => ⟨List.not_mem_nil, List.not_mem_nil⟩
  · exact fun _ => List.not_mem_nil

theorem test_hyp_TimeoutAfterBudget :
    let s := issuing (pinged (node 0)) 0x506 0
    s.bus = [] ∧ s.busCycle = [] ∧ s.run = none ∧ s.host = .command 0x506 0 :: [] ∧ s.aq = [] ∧
    decoded (.command 0x506 0) = some (.waitAck 5) ∧ 1 ≤ s.params.ackPollBudget ∧
    1 ≤ ({ params with ackPollBudget := 1 } : Params).ackPollBudget := by decide

/-- V-W4's acknowledges, with one of another slave between them. -/
def script : List Frame :=
  [frame 0x0000B001 0 [], frame 0x00004001 0 [], frame 0x0000B001 0 [], ⟨true, false, 0x0000A001, 8, pong⟩]

theorem test_hyp_RetriesThenSuccess :
    let s : State := { issuing (pinged (node 0)) 0x506 0 with aq := script }
    s.bus = [] ∧ s.busCycle = [] ∧ s.run = none ∧ s.host = .command 0x506 0 :: [] ∧
    decode (.command 0x506 0) = .ok (.waitAck 5) ∧ s.isMaster = true ∧ s.pending.valid = true ∧
    s.pending.slaveId = 5 ∧ s.aq = script ∧
    AckScript s.params.ackPollBudget 5 s.params.ackPollBudget script 2 ⟨.success, 0, 8, 0, pong⟩ ∧
    2 ≤ s.tx.count .free :=
  ⟨rfl, rfl, rfl, rfl, rfl, rfl, rfl, rfl, rfl,
    .retry _ _ _ _ _ (by decide) (by decide) (by decide)
      (.other _ _ _ _ _ (by decide) (by decide) (by decide)
        (.retry _ _ _ _ _ (by decide) (by decide) (by decide)
          (.last _ _ (by decide) (by decide) (by decide)))), by decide⟩

theorem test_hyp_HandlerCarriesOutScanRound :
    let s := issuing (node 0) 0x9 0
    s.bus = [] ∧ s.busCycle = [] ∧ s.run = none ∧ s.outer = none ∧ s.host = .command 0x9 0 :: [] ∧
    decoded (.command 0x9 0) = some .handler ∧ s.isMaster = true ∧ s.scanProbe = some (1, 1) ∧
    LowestFree s.tx 0 ∧ 1 ≤ s.params.ackPollBudget ∧ s.aq = [] ∧
    (IsAccepted 1 (frame 0x2001 8 []) ∧ IsFrom 1 (unpack (frame 0x2001 8 []).id).control ∧
      (unpack (frame 0x2001 8 []).id).tos ≠ 2) := by decide

theorem test_hyp_DiscoveryTerminates :
    TableInv probing ∧ probing.isMaster = true ∧
    (List.replicate 6 (none : Option Message)).length =
      probing.candidateCount * probing.params.scanRetryLimit ∧
    probing.isCandidate 1 = true ∧ probing.isCandidate 3 = true := ⟨test_hyp_TableInvKept, by decide⟩

theorem test_hyp_ResetMeetsInvariants : params.Valid := by decide

end Sys2Proof.Tests
end

namespace Sys2Proof.Machine

/-! ## The step, by whose turn it is and by what is fetched (00_scope.md R7, R8) -/

/-! ### The turn -/

/-- Where the BUS has nothing to do, the turn is the CORE's or the HOST's. -/
theorem turn_of_quiet {s : State} {rest : List BusAction} (h : Quiet s rest) :
    s.turn = .thread { s with bus := rest } := by
  obtain ⟨hb, rfl⟩ | hb := h <;> simp [State.turn, hb]

theorem step_of_deliver {s : State} {f : Frame} {rest : List BusAction} (h : s.bus = .deliver f :: rest) :
    step s = .next ({ s with bus := rest }.deliver f) := by
  simp [step, State.turn, h]

theorem step_of_sent {s : State} {k : Nat} {rest : List BusAction} (h : s.bus = .sent k :: rest) :
    step s = .next ({ s with bus := rest }.sendSlot k) := by
  simp [step, State.turn, h]

/-- The step of the CORE or the HOST that fetches nothing. -/
theorem step_of_unfetched {s : State} {rest : List BusAction} (h : Quiet s rest)
    (hf : { s with bus := rest }.fetch = none) : step s = .next { s with bus := rest }.proceed := by
  simp [step, turn_of_quiet h, hf]

/-- The step of the CORE or the HOST that fetches a word runs the instruction it decodes to. -/
theorem step_of_fetched {s u : State} {rest : List BusAction} {w : Words} {i : Instr} (h : Quiet s rest)
    (hf : { s with bus := rest }.fetch = some (w, u)) (hd : decode w = .ok i) : step s = exec i u := by
  simp [step, turn_of_quiet h, hf, hd]

/-! ### What is fetched (00_scope.md R8, 40_codec.md R110) -/

theorem fetch_of_idle {s : State} {cmd data : BitVec 64} {more : List HostAction} (hr : s.run = none)
    (hh : s.host = .command cmd data :: more) :
    s.fetch = some (.command cmd data, { s with host := more }) := by
  simp [State.fetch, hr, hh]

theorem fetch_of_drain {s : State} {f : Frame} {q : List Frame} (hr : s.run = some .drain)
    (hq : s.rq = f :: q) : s.fetch = some (.frame f, { s with rq := q }) := by
  simp [State.fetch, hr, hq]

theorem fetch_of_waitAck {s : State} {slave : BitVec 7} {f : Frame} {q : List Frame}
    (hr : s.run = some (.waitAck slave)) (hq : s.aq = f :: q) :
    s.fetch = some (.frame f, { s with aq := q }) := by
  simp [State.fetch, hr, hq]

theorem fetch_of_probeWait {s : State} {c : BitVec 7} {n : Nat} {f : Frame} {q : List Frame}
    (hr : s.run = some (.probeWait c n)) (hq : s.aq = f :: q) :
    s.fetch = some (.frame f, { s with aq := q }) := by
  simp [State.fetch, hr, hq]

/-- An idle HOST, or one that returns, issues no command word. -/
theorem fetch_of_no_command {s : State} (hr : s.run = none) (hh : ∀ a ∈ s.host, a.isCommand = false) :
    s.fetch = none := by
  rcases hs : s.host with _ | ⟨⟨cmd, data⟩ | v, more⟩
  · simp [State.fetch, hr, hs]
  · exact absurd (hh (.command cmd data) (by simp [hs])) (by simp [HostAction.isCommand])
  · simp [State.fetch, hr, hs]

theorem fetch_of_empty_rq {s : State} (hr : s.run = some .drain) (hq : s.rq = []) : s.fetch = none := by
  simp [State.fetch, hr, hq]

/-- A command at `Transmit` fetches nothing. -/
theorem fetch_of_transmit {s : State} {p : Point} {f : Frame} (hr : s.run = some p)
    (hp : p.frame? = some f) : s.fetch = none := by
  cases p <;> simp_all [State.fetch, Point.frame?]

/-- What the BUS still has to do decides nothing about the fetch. -/
theorem fetch_with_bus {s : State} (hf : s.fetch = none) (b : List BusAction) :
    { s with bus := b }.fetch = none := by
  cases h : { s with bus := b }.fetch with
  | none => rfl
  | some wu =>
    obtain ⟨w, u⟩ := wu
    rcases fetch_eq_some h with ⟨cmd, data, rest, hr, hh, -⟩ | ⟨f, q, hr, hq, -⟩ |
      ⟨f, q, ⟨slave, hr⟩ | ⟨c, n, hr⟩, hq, -⟩
    · exact nomatch hf.symm.trans (fetch_of_idle hr hh)
    · exact nomatch hf.symm.trans (fetch_of_drain hr hq)
    · exact nomatch hf.symm.trans (fetch_of_waitAck hr hq)
    · exact nomatch hf.symm.trans (fetch_of_probeWait hr hq)

/-- Settles O14: at each of the four places, the fetch takes the word there. -/
theorem stepRunsDecoded : Obligations.StepRunsDecoded := by
  intro s rest hq
  refine ⟨?_, ?_, ?_, ?_⟩
  · intro cmd data more i hr hh hd
    exact step_of_fetched hq (fetch_of_idle hr hh) hd
  · intro f q i hr hrq hd
    exact step_of_fetched hq (fetch_of_drain hr hrq) hd
  · intro f q i slave hr haq hd
    exact step_of_fetched hq (fetch_of_waitAck hr haq) hd
  · intro f q i c n hr haq hd
    exact step_of_fetched hq (fetch_of_probeWait hr haq) hd

/-! ### Placed words (log 5) -/

/-- A decoded table word is a word that decodes. -/
theorem decode_tableWords {nbits w : Nat} {i : Instr} (h : decodeTableWord nbits w = some i) :
    decode (tableWords nbits w) = .ok i := by
  unfold decodeTableWord at h
  split at h
  · rw [‹decode (tableWords nbits w) = _›]
    simpa using h
  · cases h

theorem step_place_command {cmd data : BitVec 64} {i : Instr} (s : State)
    (hd : decode (.command cmd data) = .ok i) :
    step (s.place (.command cmd data)) = exec i { s with run := none } :=
  step_of_fetched (rest := s.bus) (.inr rfl) (fetch_of_idle rfl rfl) hd

theorem step_place_request {f : Frame} {i : Instr} (s : State) (hd : decode (.frame f) = .ok i)
    (ha : (unpack f.id).ack = 0) : step (s.place (.frame f)) = exec i { s with run := some .drain } := by
  rw [State.place, if_pos ha]
  exact step_of_fetched (rest := s.bus) (.inr rfl) (fetch_of_drain rfl rfl) hd

theorem step_place_ack {f : Frame} {i : Instr} (s : State) (hd : decode (.frame f) = .ok i)
    (ha : (unpack f.id).ack ≠ 0) :
    step (s.place (.frame f)) = exec i { s with
      run := some (.waitAck ((unpack f.id).control.setWidth 7))
      budget := some s.params.ackPollBudget } := by
  rw [State.place, if_neg ha]
  exact step_of_fetched (rest := s.bus) (.inr rfl) (fetch_of_waitAck rfl rfl) hd

/-- The `ack` field is the lowest bit of the identifier (30_encoding.md R70). -/
theorem unpack_ack_eq_zero_iff (id : BitVec 29) : (unpack id).ack = 0 ↔ id.getLsbD 0 = false := by
  have key : ∀ a : BitVec 1, a = 0 ↔ a.getLsbD 0 = false := by decide
  rw [key]
  simp [unpack]

/-- The low 7 bits of `control`, where an acknowledge names its sender (30_encoding.md R77). -/
theorem unpack_control_low (id : BitVec 29) : (unpack id).control.setWidth 7 = id.extractLsb' 13 7 := by
  ext k hk
  simp [unpack]
  grind

/-- Settles O15: by the kind of the table word. -/
theorem placedWordRuns : Obligations.PlacedWordRuns := by
  intro s nbits w i hi
  have hd := decode_tableWords hi
  rw [State.withFetchWord]
  by_cases hn : nbits ≤ 8 ∨ 32 < nbits
  · rw [tableWords, if_pos hn] at hd ⊢
    exact ⟨_, step_place_command s hd, fun _ => rfl, by omega, by omega⟩
  · rw [tableWords, if_neg hn] at hd ⊢
    by_cases ha : (unpack (BitVec.ofNat 29 w)).ack = 0
    · have hbit := (unpack_ack_eq_zero_iff _).1 ha
      exact ⟨_, step_place_request s hd ha, (absurd · hn), fun _ _ _ => rfl,
        fun _ _ h => absurd h (by rw [hbit]; decide)⟩
    · have hbit := mt (unpack_ack_eq_zero_iff _).2 ha
      exact ⟨_, step_place_ack s hd ha, (absurd · hn), fun _ _ h => absurd h hbit,
        fun _ _ _ => by rw [unpack_control_low]⟩

end Sys2Proof.Machine

namespace Sys2Proof.Machine

/-! ## Runs: what every step keeps (00_scope.md R7 to R11) -/

/-- What holds at the start and is kept by every step holds along the whole run. -/
theorem reaches_keeps {I : State → Prop} (kept : ∀ t u, I t → Next t u → I u) {s t : State} (hs : I s)
    (h : Reaches s t) : I t := by
  induction h with
  | refl => exact hs
  | tail _ hn ih => exact kept _ _ ih hn

/-- A step has one outcome. -/
theorem next_unique {s t u : State} (ht : Next s t) (hu : Next s u) : t = u :=
  Host.Outcome.next.inj (ht.symm.trans hu)

theorem not_ended_of_running {s : State} {p : Point} (h : s.run = some p) : ¬ s.Ended := by
  simp [State.Ended, h]

theorem not_ended_of_call {s : State} (h : s.outer.isSome = true) : ¬ s.Ended := by
  rintro ⟨-, ho, -⟩
  simp [ho] at h

/-- Every step is the BUS's, or the CORE's or the HOST's with one of the effects. -/
theorem next_effects {s t : State} (h : Next s t) :
    (∃ f rest, s.bus = .deliver f :: rest ∧ t = { s with bus := rest }.deliver f) ∨
    (∃ k rest, s.bus = .sent k :: rest ∧ t = { s with bus := rest }.sendSlot k) ∨
    ∃ u o, Taken s u ∧ s.runs = o.map (·, u) ∧ Effect u o t := by
  rcases next_moves h with ⟨f, rest, hb, rfl, -⟩ | ⟨k, rest, hb, rfl, -⟩ | ⟨u, hu, ⟨i, hi, hm⟩ | ⟨hi, hm⟩⟩
  · exact .inl ⟨f, rest, hb, rfl⟩
  · exact .inr (.inl ⟨k, rest, hb, rfl⟩)
  · exact .inr (.inr ⟨u, some i, hu, hi, move_effect hm⟩)
  · exact .inr (.inr ⟨u, none, hu, hi, move_effect hm⟩)

/-- Where nothing is fetched, the step is the BUS's or goes on from where the command stands. -/
theorem next_of_unfetched {s t : State} (hf : s.fetch = none) (h : Next s t) :
    (∃ f rest, s.bus = .deliver f :: rest ∧ t = { s with bus := rest }.deliver f) ∨
    (∃ k rest, s.bus = .sent k :: rest ∧ t = { s with bus := rest }.sendSlot k) ∨
    ∃ rest, Quiet s rest ∧ t = { s with bus := rest }.proceed := by
  rcases step_eq_next h with hd | hs | ⟨v, -, ⟨rest, hq, rfl⟩, ⟨-, rfl⟩ | ⟨w, u, i, hw, -⟩⟩
  · exact .inl hd
  · exact .inr (.inl hs)
  · exact .inr (.inr ⟨rest, hq, rfl⟩)
  · exact nomatch (fetch_with_bus hf rest).symm.trans hw

/-- Where nothing is fetched, the run goes on. -/
theorem exists_next_of_unfetched {s : State} (hf : s.fetch = none) : ∃ t, Next s t := by
  rcases turn_cases s with ⟨hb, -⟩ | ⟨rest, hb, -⟩ | ⟨f, rest, hb, -⟩ | ⟨k, rest, hb, -⟩
  · exact ⟨_, step_of_unfetched (.inl ⟨hb, rfl⟩) (fetch_with_bus hf _)⟩
  · exact ⟨_, step_of_unfetched (.inr hb) (fetch_with_bus hf _)⟩
  · exact ⟨_, step_of_deliver hb⟩
  · exact ⟨_, step_of_sent hb⟩

/-! ### What the BUS's steps leave as it is (40_codec.md R105, R109) -/

/-- A delivery changes nothing but the receive queues. -/
theorem deliver_same (s : State) (f : Frame) :
    ∃ rq aq, s.deliver f = { s with rq := rq, aq := aq } := by
  rcases deliver_cases s f with ⟨-, h⟩ | ⟨-, h⟩ | ⟨-, h⟩
  · exact ⟨_, s.aq, h⟩
  · exact ⟨s.rq, _, h⟩
  · exact ⟨s.rq, s.aq, h⟩

/-- Sending a slot's frame changes nothing but the slots and the wire. -/
theorem sendSlot_same (s : State) (k : Nat) :
    ∃ tx wire, s.sendSlot k = { s with tx := tx, wire := wire } := by
  rcases sendSlot_cases s k with ⟨f, -, h⟩ | ⟨-, h⟩
  · exact ⟨_, _, h⟩
  · exact ⟨s.tx, s.wire, h⟩

/-- A delivery adds at most the delivered frame to RQ. -/
theorem mem_deliver_rq {s : State} {f g : Frame} (h : g ∈ (s.deliver f).rq) :
    g ∈ s.rq ∨ g = receivedFrame f := by
  rcases deliver_cases s f with ⟨-, e⟩ | ⟨-, e⟩ | ⟨-, e⟩ <;> rw [e] at h
  · exact mem_enqueue h
  · exact .inl h
  · exact .inl h

/-- An unconfigured node receives nothing (40_codec.md R104). -/
theorem deliver_of_unconfigured {s : State} (h : s.configured = false) (f : Frame) : s.deliver f = s := by
  simp [State.deliver, State.filterMatch, h]

/-! ### What the CORE's and the HOST's steps leave as it is -/

/-- No move writes the BUS's list, its cycle or RQ; what is fetched is taken before it. -/
theorem Effect.inputs {s t : State} {o : Option Instr} (h : Effect s o t) :
    t.rq = s.rq ∧ t.bus = s.bus ∧ t.busCycle = s.busCycle := by
  cases h <;> exact ⟨rfl, rfl, rfl⟩

/-- A move takes at most a return from the HOST's list. -/
theorem Effect.host {s t : State} {o : Option Instr} (h : Effect s o t) :
    t.host = s.host ∨ ∃ v more, s.host = .ret v :: more ∧ t.host = more := by
  cases h
  case returnsNop v more _ _ hh => exact .inr ⟨v, more, hh, rfl⟩
  case returns v more _ _ _ hh _ => exact .inr ⟨v, more, hh, rfl⟩
  all_goals exact .inl rfl

/-- Only a return of the HOST ends a `Call` (60_exceptions.md R287). -/
theorem Effect.outer_isSome {s t : State} {o : Option Instr} (h : Effect s o t)
    (hs : s.outer.isSome = true) (hr : ∀ v, .ret v ∉ s.host) : t.outer.isSome = true := by
  cases h
  case returns v more _ _ _ hh _ => exact absurd (by simp [hh]) (hr v)
  case calls => rfl
  all_goals exact hs

/-- The BUS's draws after a turn of the CORE or the HOST are draws it had. -/
theorem quiet_mem {s : State} {rest : List BusAction} (h : Quiet s rest) {a : BusAction} (ha : a ∈ rest) :
    a ∈ s.bus ∨ a ∈ s.busCycle := by
  obtain ⟨-, rfl⟩ | hb := h
  · exact .inr ha
  · exact .inl (by simp [hb, ha])

/-- No step gives the BUS new draws, and the BUS keeps its cycle (log 1). -/
theorem next_draws {s t : State} (h : Next s t) :
    t.busCycle = s.busCycle ∧ ∀ a ∈ t.bus, a ∈ s.bus ∨ a ∈ s.busCycle := by
  rcases next_effects h with ⟨f, rest, hb, rfl⟩ | ⟨k, rest, hb, rfl⟩ | ⟨u, o, hu, -, he⟩
  · obtain ⟨rq, aq, e⟩ := deliver_same { s with bus := rest } f
    exact ⟨by rw [e], by rw [e]; simp_all⟩
  · obtain ⟨tx, wire, e⟩ := sendSlot_same { s with bus := rest } k
    exact ⟨by rw [e], by rw [e]; simp_all⟩
  · obtain ⟨-, hbus, hcycle⟩ := he.inputs
    obtain ⟨⟨rq, aq, host, bus, rfl⟩, -, -, -, hq⟩ := hu
    exact ⟨hcycle, fun a ha => quiet_mem hq (hbus ▸ ha)⟩

/-! ## Hangs (00_scope.md R11; 70_reset_and_hazards.md R312, R330 to R333) -/

/-- A run hangs when some property of unended states always goes on to a state that has it. -/
theorem hangs_of_going_on {I : State → Prop} (going : ∀ s, I s → ¬ s.Ended ∧ ∃ t, Next s t ∧ I t)
    {s : State} (hs : I s) : Hangs s := by
  intro t ht
  have keeps : ∀ t u, I t → Next t u → I u := by
    intro t u hi hn
    obtain ⟨-, v, hv, hiv⟩ := going t hi
    exact next_unique hv hn ▸ hiv
  obtain ⟨hne, u, hu, -⟩ := going t (reaches_keeps keeps hs ht)
  exact ⟨hne, u, hu⟩

/-- A run hangs when every step keeps some property of unended states that fetch nothing. -/
theorem hangs_of_unfetched {I : State → Prop} (kept : ∀ t u, I t → Next t u → I u)
    (unended : ∀ t, I t → ¬ t.Ended ∧ t.fetch = none) {s : State} (hs : I s) : Hangs s := by
  intro t ht
  obtain ⟨hne, hf⟩ := unended t (reaches_keeps kept hs ht)
  exact ⟨hne, exists_next_of_unfetched hf⟩

/-! ### An ended run -/

/-- With no `Call` to return from, a return does nothing (log 4). -/
theorem returnFromCall_of_no_call {s : State} (h : s.outer = none) : s.returnFromCall = s := by
  simp [State.returnFromCall, h]

/-- A step of an ended run is the BUS's, or uses up a return that the HOST has no `Call` for. -/
theorem ended_next {s t : State} (hs : s.Ended) (h : Next s t) : t.Ended ∧ t.record = s.record := by
  obtain ⟨hr, ho, hh⟩ := hs
  rcases next_of_unfetched (fetch_of_no_command hr hh) h with
    ⟨f, rest, -, rfl⟩ | ⟨k, rest, -, rfl⟩ | ⟨rest, -, rfl⟩
  · obtain ⟨rq, aq, e⟩ := deliver_same { s with bus := rest } f
    rw [e]
    exact ⟨⟨hr, ho, hh⟩, rfl⟩
  · obtain ⟨tx, wire, e⟩ := sendSlot_same { s with bus := rest } k
    rw [e]
    exact ⟨⟨hr, ho, hh⟩, rfl⟩
  · rcases proceed_cases { s with bus := rest } with ⟨p, hp, -⟩ | ⟨v, more, -, hv, e⟩ | ⟨-, -, e⟩
    · exact nomatch hr.symm.trans hp
    · have hrest : s.host = .ret v :: more := hv
      rw [e, returnFromCall_of_no_call (by exact ho)]
      exact ⟨⟨hr, ho, fun a ha => hh a (by simp [hrest, ha])⟩, rfl⟩
    · rw [e]
      exact ⟨⟨hr, ho, hh⟩, rfl⟩

/-- An ended run stays ended, with the observation it has. -/
theorem ended_reaches {s t : State} (hs : s.Ended) (h : Reaches s t) : t.Ended ∧ t.record = s.record :=
  reaches_keeps (I := fun u => u.Ended ∧ u.record = s.record)
    (fun _ _ ⟨hu, hrec⟩ hn => ⟨(ended_next hu hn).1, (ended_next hu hn).2.trans hrec⟩) ⟨hs, rfl⟩ h

/-! ### HANDLER locked on an unconfigured node -/

/-- HANDLER holds at the poll of an empty RQ on an unconfigured node that master slot `m` has locked, and
the observation is `rec` (70_reset_and_hazards.md R312). -/
structure LockedDrain (m : BitVec 3) (rec : List Observation) (s : State) : Prop where
  run : s.run = some .drain
  locked : s.locked = some m
  rq : s.rq = []
  unconfigured : s.configured = false
  record : s.record = rec

theorem lockedDrain_next {m : BitVec 3} {rec : List Observation} (s t : State) (hs : LockedDrain m rec s)
    (h : Next s t) : LockedDrain m rec t := by
  obtain ⟨hr, hl, hq, hc, hrec⟩ := hs
  rcases next_of_unfetched (fetch_of_empty_rq hr hq) h with
    ⟨f, rest, -, rfl⟩ | ⟨k, rest, -, rfl⟩ | ⟨rest, -, rfl⟩
  · rw [deliver_of_unconfigured (by exact hc)]
    exact ⟨hr, hl, hq, hc, hrec⟩
  · obtain ⟨tx, wire, e⟩ := sendSlot_same { s with bus := rest } k
    rw [e]
    exact ⟨hr, hl, hq, hc, hrec⟩
  · have e : { s with bus := rest }.proceed = { s with bus := rest }.stopAt .drain := by
      simp [State.proceed, State.resume, State.drainEmpty, hr, hq, hl]
    rw [e]
    exact ⟨rfl, hl, hq, hc, hrec⟩

/-! ### Transmit with no free slot -/

theorem noneFree_iff (tx : List Slot) : NoneFree tx ↔ Slot.free ∉ tx :=
  ⟨fun h hf => h _ hf rfl, fun h _ hx e => h (e ▸ hx)⟩

/-- A command at `Transmit` holds while no slot is free (40_codec.md R108). -/
theorem resume_of_noneFree {s : State} {p : Point} {f : Frame} (hp : p.frame? = some f)
    (ht : Slot.free ∉ s.tx) : s.resume p = s.stopAt p := by
  have hn (g : Frame) := (transmit_eq_none_iff s g).2 ht
  cases p <;> simp_all [Point.frame?, State.resume, State.attempt]

/-- A command stands at the `Transmit` of `p` with the slots `tx` all busy, the BUS never frees one, and
the observation is `rec` (70_reset_and_hazards.md R330). -/
structure Blocked (p : Point) (tx : List Slot) (rec : List Observation) (s : State) : Prop where
  run : s.run = some p
  tx : s.tx = tx
  record : s.record = rec
  neverSends : NeverSends s

theorem NeverSends.next {s t : State} (hs : NeverSends s) (h : Next s t) : NeverSends t := by
  intro k
  obtain ⟨hcycle, hbus⟩ := next_draws h
  exact ⟨fun hk => (hbus _ hk).elim (hs k).1 (hs k).2, hcycle ▸ (hs k).2⟩

theorem blocked_next {p : Point} {f : Frame} {tx : List Slot} {rec : List Observation}
    (hp : p.frame? = some f) (htx : NoneFree tx) (s t : State) (hs : Blocked p tx rec s) (h : Next s t) :
    Blocked p tx rec t := by
  have hsends := hs.neverSends.next h
  obtain ⟨hr, ht, hrec, hnever⟩ := hs
  rcases next_of_unfetched (fetch_of_transmit hr hp) h with
    ⟨g, rest, -, rfl⟩ | ⟨k, rest, hb, -⟩ | ⟨rest, -, rfl⟩
  · obtain ⟨rq, aq, e⟩ := deliver_same { s with bus := rest } g
    rw [e] at hsends ⊢
    exact ⟨hr, ht, hrec, hsends⟩
  · exact absurd (by simp [hb]) (hnever k).1
  · have hfull : Slot.free ∉ s.tx := ht ▸ (noneFree_iff tx).1 htx
    have e : { s with bus := rest }.proceed = { s with bus := rest }.stopAt p := by
      rw [State.proceed, hr]
      exact resume_of_noneFree hp hfull
    rw [e] at hsends ⊢
    exact ⟨rfl, ht, hrec, hsends⟩

/-! ### A `Call` that never returns -/

/-- HANDLER holds at a `Call` from which the HOST will never return (70_reset_and_hazards.md R333). -/
structure Unreturned (s : State) : Prop where
  outer : s.outer.isSome = true
  host : ∀ v, .ret v ∉ s.host

theorem unreturned_next (s t : State) (hs : Unreturned s) (h : Next s t) : Unreturned t := by
  obtain ⟨ho, hh⟩ := hs
  rcases next_effects h with ⟨f, rest, -, rfl⟩ | ⟨k, rest, -, rfl⟩ | ⟨u, o, hu, -, he⟩
  · obtain ⟨rq, aq, e⟩ := deliver_same { s with bus := rest } f
    rw [e]
    exact ⟨ho, hh⟩
  · obtain ⟨tx, wire, e⟩ := sendSlot_same { s with bus := rest } k
    rw [e]
    exact ⟨ho, hh⟩
  · obtain ⟨⟨rq, aq, host, bus, rfl⟩, -, -, hhost, -⟩ := hu
    have hret : ∀ v, .ret v ∉ host := by
      rcases hhost with rfl | ⟨cmd, data, hc⟩
      · exact hh
      · exact fun v hv => hh v (by simp [hc, hv])
    refine ⟨he.outer_isSome ho hret, fun v => ?_⟩
    rcases he.host with e | ⟨w, more, e, -⟩
    · rw [e]
      exact hret v
    · exact absurd (by simp [show host = _ from e]) (hret w)

/-- The HOST holds the turn at a `Call` and does nothing any more. -/
structure IdleInCall (s : State) : Prop where
  run : s.run = none
  host : s.host = []
  outer : s.outer.isSome = true

theorem idleInCall_next (s t : State) (hs : IdleInCall s) (h : Next s t) : IdleInCall t := by
  obtain ⟨hr, hh, ho⟩ := hs
  rcases next_of_unfetched (fetch_of_no_command hr (by simp [hh])) h with
    ⟨f, rest, -, rfl⟩ | ⟨k, rest, -, rfl⟩ | ⟨rest, -, rfl⟩
  · obtain ⟨rq, aq, e⟩ := deliver_same { s with bus := rest } f
    rw [e]
    exact ⟨hr, hh, ho⟩
  · obtain ⟨tx, wire, e⟩ := sendSlot_same { s with bus := rest } k
    rw [e]
    exact ⟨hr, hh, ho⟩
  · have e : { s with bus := rest }.proceed = { s with bus := rest } := by
      simp [State.proceed, hr, hh]
    rw [e]
    exact ⟨hr, hh, ho⟩

end Sys2Proof.Machine

namespace Sys2Proof.Machine

/-! ### Frames that decode to Unlock (30_encoding.md R74, R76) -/

theorem pack_unpack (id : BitVec 29) : pack (unpack id) = id := by
  unfold pack unpack
  dsimp only
  ext k hk
  simp only [BitVec.getElem_or, BitVec.getElem_shiftLeft, BitVec.getElem_setWidth,
    BitVec.getLsbD_extractLsb']
  grind

/-- `control` is its high byte and its ETOS. -/
theorem control_eq_append (control : BitVec 16) :
    ((control.extractLsb' 8 8 ++ etosOf control).cast (by rfl) : BitVec 16) = control := by
  ext k hk
  simp [etosOf]
  grind

theorem decodeEtos_eq_etosUnlock {u : IdFields} {dlc : BitVec 4} {data : Message} {q : EtosOps}
    (h : decodeEtos u dlc data = .etosUnlock q) : etosOf u.control = 0x01 ∧ q = etosOps u dlc data := by
  unfold decodeEtos at h
  obtain ⟨-, h⟩ | ⟨-, h⟩ := ite_eq_iff.1 h
  · cases h
  obtain ⟨hetos, h⟩ | ⟨-, h⟩ := ite_eq_iff.1 h
  · cases h
    exact ⟨hetos, rfl⟩
  · repeat
      obtain ⟨-, h⟩ | ⟨-, h⟩ := ite_eq_iff.1 h
      · cases h
    cases h

theorem decodeRequest_eq_etosUnlock {u : IdFields} {dlc : BitVec 4} {data : Message} {q : EtosOps}
    (h : decodeRequest u dlc data = .etosUnlock q) :
    u.tos = 0 ∧ etosOf u.control = 0x01 ∧ q = etosOps u dlc data := by
  unfold decodeRequest at h
  split_ifs at h with htos
  exact ⟨htos, decodeEtos_eq_etosUnlock h⟩

theorem decodeAck_ne_etosUnlock (u : IdFields) (dlc : BitVec 4) (data : Message) (q : EtosOps) :
    decodeAck u dlc data ≠ .etosUnlock q := by
  unfold decodeAck
  split_ifs <;> nofun

/-- The identifier of a frame that decodes to Unlock. -/
theorem unpack_of_decode_etosUnlock {f : Frame} {q : EtosOps}
    (h : decode (.frame f) = .ok (.etosUnlock q)) :
    unpack f.id = ⟨(q.controlHigh ++ (0x01 : BitVec 8)).cast (by rfl), 0, q.ms, q.node, 0⟩ := by
  simp only [decode, decodeFrame] at h
  split_ifs at h with _ _ hack <;> rw [Except.ok.injEq] at h
  · obtain ⟨htos, hetos, rfl⟩ := decodeRequest_eq_etosUnlock h
    rw [← hetos, etosOps, control_eq_append, ← htos, ← hack]
  · exact absurd h (decodeAck_ne_etosUnlock _ _ _ _)

/-- A frame that decodes to Unlock is one from the master of its slot (44_dispatcher.md R226). -/
theorem isUnlock_of_decode {f : Frame} {q : EtosOps} (h : decode (.frame f) = .ok (.etosUnlock q)) :
    IsUnlock q.ms f := by
  have hu := unpack_of_decode_etosUnlock h
  refine ⟨?_, congrArg IdFields.ms hu⟩
  rw [← pack_unpack f.id, hu, Laws.etos_fixed]
  decide

/-! ### A lock that is never released -/

/-- HANDLER is past its scanner step: it runs there, or it holds at a `Call` under which no HANDLER runs
(10_state.md R21, R29). -/
def InDrain (s : State) : Prop :=
  (s.outer = none ∧ ∃ p, s.run = some p ∧ p.inDrain = true) ∨
  (s.outer.isSome = true ∧ ∀ p, s.run = some p → p.inHandler = false)

theorem ControlInv.inDrain {s : State} {m : BitVec 3} (h : ControlInv s) (hm : s.locked = some m) :
    InDrain s := by
  cases ho : s.outer with
  | some c => exact .inr ⟨by simp [ho], fun p hp => h.nested p hp (by simp [ho])⟩
  | none =>
    rcases h.lockScoped m hm with hc | hp
    · simp [ho] at hc
    · exact .inl ⟨ho, hp⟩

theorem InDrain.not_ended {s : State} (h : InDrain s) : ¬ s.Ended := by
  rcases h with ⟨-, p, hp, -⟩ | ⟨ho, -⟩
  · exact not_ended_of_running hp
  · exact not_ended_of_call ho

/-- What runs outside the drain runs under the `Call`, and so does an idle HOST. -/
theorem InDrain.outer_isSome {s : State} (h : InDrain s) (hr : ∀ p, s.run = some p → p.inDrain = false) :
    s.outer.isSome = true := by
  rcases h with ⟨-, p, hp, hd⟩ | ⟨ho, -⟩
  · simp [hr p hp] at hd
  · exact ho

/-- HANDLER itself does not run under the `Call`. -/
theorem InDrain.outer_eq_none {s : State} {p : Point} (h : InDrain s) (hr : s.run = some p)
    (hp : p.inHandler = true) : s.outer = none := by
  rcases h with ⟨ho, -⟩ | ⟨-, hn⟩
  · exact ho
  · simp [hn p hr] at hp

/-- The scanner does not run any more. -/
theorem InDrain.not_probing {s : State} {p : Point} (h : InDrain s) (hr : s.run = some p)
    (hp : p.inHandler = true) : p.inDrain = true := by
  rcases h with ⟨-, q, hq, hd⟩ | ⟨-, hn⟩
  · simp_all
  · simp [hn p hr] at hp

theorem BackToDrain.inDrain {p : Point} (h : BackToDrain p) : p.inDrain = true := by
  obtain rfl | ⟨f, rfl, -⟩ := h <;> rfl

/-- A locked drain goes on: it ends only unlocked (44_dispatcher.md R221). -/
theorem InDrain.effect {s t : State} {o : Option Instr} (hd : InDrain s) (hl : s.locked ≠ none)
    (h : Effect s o t) : InDrain t := by
  have idle (hr : s.run = none) : s.outer ≠ none := by
    simpa [Option.isSome_iff_ne_none] using hd.outer_isSome (by simp [hr])
  cases h
  case holds => exact hd
  case drained hlock => exact absurd hlock hl
  case replies hr hp | locks hr _ hp | unlocks hr _ hp =>
    exact .inl ⟨hd.outer_eq_none hr rfl, _, rfl, hp.inDrain⟩
  case replySent hr _ => exact .inl ⟨hd.outer_eq_none hr rfl, _, rfl, rfl⟩
  case returns hp => exact .inl ⟨rfl, _, rfl, hp.inDrain⟩
  case calls => exact .inr ⟨rfl, by simp⟩
  case resets hr ho | scans hr ho _ _ _ _ | scanHolds hr ho _ _ _ _ | drains hr ho _ | drainsEnd hr ho _ |
      returnsNop hr ho _ => exact absurd ho (idle hr)
  case found hr _ _ | full hr _ _ | failed hr _ | probePolls hr _ _ _ | probeResends hr _ _ |
      probeSent hr _ | probeResent hr _ => exact nomatch hd.not_probing hr rfl
  all_goals
    refine .inr ⟨hd.outer_isSome ?_, by simp [Point.inHandler]⟩
    grind [Point.inDrain]

/-- Only HANDLER's start, its scanner and the holder's Unlock clear a lock (44_dispatcher.md R220, R226). -/
theorem InDrain.locked_effect {s t : State} {o : Option Instr} {m : BitVec 3} (hd : InDrain s)
    (hl : s.locked = some m) (h : Effect s o t)
    (hu : ∀ q, o = some (.etosUnlock q) → s.run = some .drain → q.ms ≠ m) : t.locked = some m := by
  have idle (hr : s.run = none) : s.outer ≠ none := by
    simpa [Option.isSome_iff_ne_none] using hd.outer_isSome (by simp [hr])
  cases h
  case locks q p hr hm hp => exact congrArg some (hm m hl)
  case unlocks q p hr hm hp => exact absurd (hm m hl) (hu q rfl hr)
  case drains hr ho _ | drainsEnd hr ho _ => exact absurd ho (idle hr)
  case found hr _ _ | full hr _ _ | failed hr _ => exact nomatch hd.not_probing hr rfl
  all_goals simpa using hl

/-- What a step runs is what it fetches, decoded. -/
theorem runs_eq_some {s u : State} {i : Instr} (h : s.runs = some (i, u)) :
    ∃ rest w, Quiet s rest ∧ { s with bus := rest }.fetch = some (w, u) ∧ decode w = .ok i := by
  have thread {rest : List BusAction} (hq : Quiet s rest) :
      ∃ w, { s with bus := rest }.fetch = some (w, u) ∧ decode w = .ok i := by
    simp only [State.runs, turn_of_quiet hq] at h
    split at h
    · cases h
    · split at h <;> cases h
      exact ⟨_, ‹_›, ‹_›⟩
  rcases turn_cases s with ⟨hb, -⟩ | ⟨rest, hb, -⟩ | ⟨f, rest, -, ht⟩ | ⟨k, rest, -, ht⟩
  · obtain ⟨w, hw⟩ := thread (.inl ⟨hb, rfl⟩)
    exact ⟨_, w, .inl ⟨hb, rfl⟩, hw⟩
  · obtain ⟨w, hw⟩ := thread (.inr hb)
    exact ⟨rest, w, .inr hb, hw⟩
  · simp [State.runs, ht] at h
  · simp [State.runs, ht] at h

/-- What a step at DRAIN's poll runs is the request at the head of RQ (40_codec.md R110). -/
theorem runs_request {s u : State} {i : Instr} (h : s.runs = some (i, u)) (hr : s.run = some .drain) :
    ∃ f q, s.rq = f :: q ∧ decode (.frame f) = .ok i := by
  obtain ⟨rest, w, -, hf, hd⟩ := runs_eq_some h
  rcases fetch_eq_some hf with ⟨_, _, _, hr', -⟩ | ⟨f, q, -, hq, rfl, -⟩ | ⟨_, _, ⟨_, hr'⟩ | ⟨_, _, hr'⟩, -⟩
  · exact nomatch hr.symm.trans hr'
  · exact ⟨f, q, hq, hd⟩
  · exact nomatch hr.symm.trans hr'
  · exact nomatch hr.symm.trans hr'

/-- HANDLER is locked by the master of slot `m`, whose Unlock neither waits in RQ nor will come
(70_reset_and_hazards.md R331). -/
structure LockHeld (m : BitVec 3) (s : State) : Prop where
  locked : s.locked = some m
  inDrain : InDrain s
  neverUnlocks : NeverUnlocks m s

theorem NeverUnlocks.next {m : BitVec 3} {s t : State} (hs : NeverUnlocks m s) (h : Next s t) :
    NeverUnlocks m t := by
  obtain ⟨hrq, hbus⟩ := hs
  obtain ⟨hcycle, hdraws⟩ := next_draws h
  refine ⟨fun g hg => ?_, fun f hf =>
    ⟨fun hm => (hdraws _ hm).elim (hbus f hf).1 (hbus f hf).2, hcycle ▸ (hbus f hf).2⟩⟩
  rcases next_effects h with ⟨f, rest, hb, rfl⟩ | ⟨k, rest, -, rfl⟩ | ⟨u, o, hu, -, he⟩
  · rcases mem_deliver_rq hg with hq | rfl
    · exact hrq g hq
    · exact fun hun => (hbus f hun).1 (by simp [hb])
  · obtain ⟨tx, wire, e⟩ := sendSlot_same { s with bus := rest } k
    rw [e] at hg
    exact hrq g hg
  · rw [he.inputs.1] at hg
    rcases hu.rq with e | ⟨f, e⟩
    · exact hrq g (e ▸ hg)
    · exact hrq g (by simp [e, hg])

theorem lockHeld_next {m : BitVec 3} (s t : State) (hs : LockHeld m s) (h : Next s t) : LockHeld m t := by
  have hnever := hs.neverUnlocks.next h
  obtain ⟨hl, hd, hrq, -⟩ := hs
  rcases next_effects h with ⟨f, rest, -, rfl⟩ | ⟨k, rest, -, rfl⟩ | ⟨u, o, hu, hruns, he⟩
  · obtain ⟨rq, aq, e⟩ := deliver_same { s with bus := rest } f
    rw [e] at hnever ⊢
    exact ⟨hl, hd, hnever⟩
  · obtain ⟨tx, wire, e⟩ := sendSlot_same { s with bus := rest } k
    rw [e] at hnever ⊢
    exact ⟨hl, hd, hnever⟩
  · obtain ⟨⟨rq, aq, host, bus, rfl⟩, -⟩ := hu
    have hunlock : ∀ q, o = some (.etosUnlock q) → s.run = some .drain → q.ms ≠ m := by
      rintro q rfl hr rfl
      obtain ⟨f, rest, hf, hdec⟩ := runs_request hruns hr
      exact hrq f (by simp [hf]) (isUnlock_of_decode hdec)
    have hd' : InDrain { s with rq := rq, aq := aq, host := host, bus := bus } := hd
    exact ⟨hd'.locked_effect hl he hunlock, hd'.effect (by simp [hl]) he, hnever⟩

/-- While the holder of the lock never sends Unlock, the run has no end (70_reset_and_hazards.md R331). -/
theorem neverEnds_of_lockHeld {m : BitVec 3} {s : State} (hs : LockHeld m s) : NeverEnds s :=
  fun _ ht => (reaches_keeps lockHeld_next hs ht).inDrain.not_ended

end Sys2Proof.Machine

namespace Sys2Proof.Machine

/-! ### Endless RETRY -/

/-- A frame that is RETRY from a slave decodes to the row ACK_RETRY (30_encoding.md R75, R78). -/
theorem decode_retry {slave : BitVec 7} {f : Frame} (h : IsRetry slave f) :
    decode (.frame f) = .ok (.ackRetry (frameOps (unpack f.id) f.dlc f.data)) := by
  obtain ⟨⟨hide, hrtr, hack, -⟩, -, htos⟩ := h
  simp [decode, decodeFrame, decodeAck, hide, hrtr, hack, htos]

/-- The frame that an acknowledge row rebuilds from its operands is the frame that was received
(30_encoding.md R75). -/
theorem ackFrame_frameOps {f : Frame} {tos : BitVec 2} (hf : IsAccepted 1 f) (htos : (unpack f.id).tos = tos) :
    ackFrame (frameOps (unpack f.id) f.dlc f.data) tos = f := by
  obtain ⟨hide, hrtr, hack, -⟩ := hf
  have hid : pack ⟨(unpack f.id).control, tos, (unpack f.id).ms, (unpack f.id).node, 1⟩ = f.id := by
    rw [← htos, ← hack]
    exact pack_unpack f.id
  cases f
  simp_all [ackFrame, frameOps, mbnetFrame]

/-- RETRY from the slave answers a poll for it with `RetryRequested` (42_master_request.md R152). -/
theorem receiveAck_retry {slave : BitVec 7} {f : Frame} (h : IsRetry slave f) (s : State) :
    s.receiveAck slave f = (Result.ofStatus .retryRequested, s) := by
  obtain ⟨-, hfrom, htos⟩ := h
  have hsender : fromSlave (unpack f.id) slave = true := beq_iff_eq.2 hfrom
  simp [State.receiveAck, hsender, htos, tosRetry]

/-- After RETRY the loop of WAIT_ACK resends (42_master_request.md R154). -/
theorem afterPoll_retry {s : State} {slave : BitVec 7} {f : Frame} (h : s.resendFrame slave = .ok f) :
    s.afterPoll slave (Result.ofStatus .retryRequested) = (.resend f, s) := by
  simp [State.afterPoll, Result.ofStatus, h]

/-- On a configured master, PENDING to the slave is what a resend sends (42_master_request.md R151). -/
theorem resendFrame_pending {s : State} {slave : BitVec 7} (hm : s.isMaster = true)
    (hv : s.pending.valid = true) (hs : s.pending.slaveId = slave) :
    s.resendFrame slave = .ok s.pendingFrame := by
  simp only [State.isMaster, Bool.and_eq_true] at hm
  simp [State.resendFrame, hm, hv, hs, State.pendingFrame, buildFrame]

/-- Delivering into a queue leaves it with a frame (40_codec.md R106). -/
theorem enqueue_ne_nil {p : Params} (hp : 1 ≤ p.rxqDepth) (q : List Frame) (f : Frame) :
    enqueue p q f ≠ [] := by
  unfold enqueue
  split
  · simp
  · split
    · exact List.ne_nil_of_length_pos (by omega)
    · simp

/-- The BUS's cycle (70_reset_and_hazards.md R332): it delivers `g` and takes slot 0 to the wire. -/
abbrev retryCycle (g : Frame) : List BusAction := [.deliver g, .sent 0]

/-- `p` is the poll of WAIT_ACK or of the probe for this slave, and `q` the `Transmit(f)` of its resend. -/
def PollAndResend (slave : BitVec 7) (f : Frame) (p q : Point) : Prop :=
  (p = .waitAck slave ∧ q = .waitAckResend slave f) ∨
  ∃ n, p = .probeWait slave n ∧ q = .probeResend slave n f

/-- RETRY taken at a poll for its sender leads to the `Transmit` of the resend (42_master_request.md R154). -/
theorem exec_ackRetry_of_retry {s : State} {slave : BitVec 7} {f x : Frame} {p q : Point}
    (hpq : PollAndResend slave f p q) (hx : IsRetry slave x) (hr : s.run = some p)
    (hf : s.resendFrame slave = .ok f) :
    exec (.ackRetry (frameOps (unpack x.id) x.dlc x.data)) s = .next (s.stopAt q) := by
  rw [exec, execAckRetry, ackFrame_frameOps (tos := tosRetry) hx.1 hx.2.2, State.takeAck, hr]
  rcases hpq with ⟨rfl, rfl⟩ | ⟨n, rfl, rfl⟩
  · simp only [receiveAck_retry hx, State.waitAckWith, afterPoll_retry hf]
  · simp only [receiveAck_retry hx, State.probeWith, afterPoll_retry hf]

/-- The resend hands its frame over and refills the budget (42_master_request.md R154). -/
theorem resume_resend {s : State} {slave : BitVec 7} {f : Frame} {p q : Point} {tx : List Slot}
    (hpq : PollAndResend slave f p q) (ht : placeFrame f s.tx = some tx) :
    s.resume q = (sending s tx f).refill.stopAt p := by
  rcases hpq with ⟨rfl, rfl⟩ | ⟨n, rfl, rfl⟩ <;> simp [State.resume, State.attempt, State.transmit, ht]

theorem PollAndResend.frame {slave : BitVec 7} {f : Frame} {p q : Point} (h : PollAndResend slave f p q) :
    q.frame? = some f := by
  rcases h with ⟨-, rfl⟩ | ⟨n, -, rfl⟩ <;> rfl

theorem PollAndResend.fetch {slave : BitVec 7} {f x : Frame} {p q : Point} {rest : List Frame} {s : State}
    (h : PollAndResend slave f p q) (hr : s.run = some p) (hq : s.aq = x :: rest) :
    s.fetch = some (.frame x, { s with aq := rest }) := by
  rcases h with ⟨rfl, -⟩ | ⟨n, rfl, -⟩
  · exact fetch_of_waitAck hr hq
  · exact fetch_of_probeWait hr hq

/-- What stays the same in the endless loop (70_reset_and_hazards.md R332): `f` is the frame of PENDING. -/
structure RetryScene (slave : BitVec 7) (g f : Frame) (s : State) : Prop where
  cycle : s.busCycle = retryCycle g
  master : s.isMaster = true
  valid : s.pending.valid = true
  slaveId : s.pending.slaveId = slave
  frame : s.pendingFrame = f
  accepted : s.filterMatch g = .toAq
  depth : 1 ≤ s.params.rxqDepth
  retries : ∀ x ∈ s.aq, IsRetry slave x
  slots : s.tx ≠ []

/-- The loop at the command's point `p` with the BUS's draws still to come and the frames `handed` over:
a RETRY waits once the BUS has delivered, and a slot is free once it has done its round. -/
structure RetryLoop (slave : BitVec 7) (g f : Frame) (p : Point) (draws : List BusAction)
    (handed : List Frame) (s : State) : Prop extends RetryScene slave g f s where
  run : s.run = some p
  bus : s.bus = draws
  sent : s.txRecord = handed
  heard : draws ≠ retryCycle g → s.aq ≠ []
  free : draws = [] → Slot.free ∈ s.tx

/-- Some state of the loop between the poll `p` and the resend `q`. -/
def Retrying (slave : BitVec 7) (g f : Frame) (p q : Point) (s : State) : Prop :=
  ∃ r draws handed, (r = p ∨ r = q) ∧ draws <:+ retryCycle g ∧ RetryLoop slave g f r draws handed s

/-- A run begins with its first step. -/
theorem run_of_next {s t : State} (h : Next s t) (n : Nat) :
    Host.Core.run Sys2Proof.core (n + 1) s = Host.Core.run Sys2Proof.core n t := by
  have hstep : Sys2Proof.core.step s = .next t := h
  simp only [Host.Core.run, hstep]

/-- A run goes on from where its first part leads. -/
theorem run_add {s t : State} {m : Nat} (h : Host.Core.run Sys2Proof.core m s = .next t) (n : Nat) :
    Host.Core.run Sys2Proof.core (m + n) s = Host.Core.run Sys2Proof.core n t := by
  induction m generalizing s with
  | zero =>
    cases h
    rw [Nat.zero_add]
  | succ m ih =>
    cases hs : Sys2Proof.core.step s with
    | next u =>
      rw [run_of_next hs] at h
      rw [Nat.succ_add, run_of_next hs, ih h]
    | fault r => simp [Host.Core.run, hs] at h
    | refused r => simp [Host.Core.run, hs] at h

section
variable {slave : BitVec 7} {g f : Frame} {p q : Point} {handed : List Frame} {s : State}

/-- The BUS delivers RETRY. -/
theorem RetryLoop.deliver (hg : IsRetry slave (receivedFrame g))
    (h : RetryLoop slave g f p (retryCycle g) handed s) :
    ∃ t, Next s t ∧ RetryLoop slave g f p [.sent 0] handed t := by
  refine ⟨_, step_of_deliver h.bus, ?_⟩
  have e : { s with bus := [.sent 0] }.deliver g =
      { s with bus := [.sent 0], aq := enqueue s.params s.aq (receivedFrame g) } := by
    simp [State.deliver, show { s with bus := [.sent 0] }.filterMatch g = .toAq from h.accepted]
  rw [e]
  exact { h with
    bus := rfl
    retries := fun x hx => (mem_enqueue hx).elim (h.retries x) (· ▸ hg)
    heard := fun _ => enqueue_ne_nil h.depth _ _
    free := nofun }

/-- The BUS takes the frame of slot 0. -/
theorem RetryLoop.send (h : RetryLoop slave g f p [.sent 0] handed s) :
    ∃ t, Next s t ∧ RetryLoop slave g f p [] handed t := by
  refine ⟨_, step_of_sent h.bus, ?_⟩
  obtain ⟨x, rest, htx⟩ := List.exists_cons_of_ne_nil h.slots
  have e : ∃ wire, { s with bus := [] }.sendSlot 0 =
      { s with bus := [], tx := .free :: rest, wire := wire } := by
    cases x with
    | free => exact ⟨s.wire, by cases s; simp_all [State.sendSlot]⟩
    | busy y => exact ⟨s.wire ++ [y], by simp [State.sendSlot, htx]⟩
  obtain ⟨wire, e⟩ := e
  rw [e]
  exact { h with
    bus := rfl
    slots := by simp
    heard := fun _ => h.heard (by simp)
    free := by simp }

/-- The command takes a RETRY and goes on to its resend. -/
theorem RetryLoop.poll (hpq : PollAndResend slave f p q) (h : RetryLoop slave g f p [] handed s) :
    ∃ t, Next s t ∧ RetryLoop slave g f q (retryCycle g) handed t := by
  obtain ⟨x, rest, haq⟩ := List.exists_cons_of_ne_nil (h.heard (by simp))
  have hx : IsRetry slave x := h.retries x (by simp [haq])
  have hquiet : Quiet s (retryCycle g) := .inl ⟨h.bus, h.cycle.symm⟩
  have hresend : { s with bus := retryCycle g, aq := rest }.resendFrame slave = .ok f :=
    h.frame ▸ resendFrame_pending h.master h.valid h.slaveId
  have hexec := exec_ackRetry_of_retry (s := { s with bus := retryCycle g, aq := rest }) hpq hx h.run hresend
  have hnext : Next s ({ s with bus := retryCycle g, aq := rest }.stopAt q) :=
    (step_of_fetched hquiet (hpq.fetch h.run haq) (decode_retry hx)).trans hexec
  exact ⟨_, hnext, { h with
    run := rfl
    bus := rfl
    retries := fun y hy => h.retries y (by simp [haq, show y ∈ rest from hy])
    heard := by simp
    free := by simp }⟩

/-- The command hands PENDING over again and goes on to its poll. -/
theorem RetryLoop.resend (hpq : PollAndResend slave f p q) (h : RetryLoop slave g f q [] handed s) :
    ∃ t, Next s t ∧ RetryLoop slave g f p (retryCycle g) (handed ++ [f]) t := by
  obtain ⟨tx, htx⟩ : ∃ tx, placeFrame f s.tx = some tx :=
    Option.ne_none_iff_exists'.1 fun hn => (placeFrame_eq_none_iff f s.tx).1 hn (h.free rfl)
  have hquiet : Quiet s (retryCycle g) := .inl ⟨h.bus, h.cycle.symm⟩
  have hnext : Next s ((sending { s with bus := retryCycle g } tx f).refill.stopAt p) := by
    rw [Next, step_of_unfetched hquiet (fetch_with_bus (fetch_of_transmit h.run hpq.frame) _),
      State.proceed, h.run]
    exact congrArg _ (resume_resend hpq htx)
  have hslots : tx ≠ [] := by
    rintro rfl
    exact h.slots (List.eq_nil_of_length_eq_zero (placeFrame_length htx).symm)
  have hsent : s.txRecord = handed := h.sent
  exact ⟨_, hnext, { h with
    run := rfl
    bus := rfl
    slots := hslots
    sent := by simp [State.txRecord, ← hsent]
    heard := by simp
    free := by simp }⟩

/-- The loop goes on from each of its states. -/
theorem retrying_goes_on (hg : IsRetry slave (receivedFrame g)) (hpq : PollAndResend slave f p q)
    (s : State) (h : Retrying slave g f p q s) :
    ¬ s.Ended ∧ ∃ t, Next s t ∧ Retrying slave g f p q t := by
  obtain ⟨r, draws, handed, hr, hdraws, hl⟩ := h
  refine ⟨not_ended_of_running hl.run, ?_⟩
  simp only [List.suffix_cons_iff, List.suffix_nil] at hdraws
  obtain rfl | rfl | rfl := hdraws
  · obtain ⟨t, hn, ht⟩ := hl.deliver hg
    exact ⟨t, hn, r, _, _, hr, List.suffix_cons .., ht⟩
  · obtain ⟨t, hn, ht⟩ := hl.send
    exact ⟨t, hn, r, _, _, hr, List.nil_suffix, ht⟩
  · obtain rfl | rfl := hr
    · obtain ⟨t, hn, ht⟩ := hl.poll hpq
      exact ⟨t, hn, q, _, _, .inr rfl, List.suffix_rfl, ht⟩
    · obtain ⟨t, hn, ht⟩ := hl.resend hpq
      exact ⟨t, hn, p, _, _, .inl rfl, List.suffix_rfl, ht⟩

/-- One round of the loop: six steps, with one resend (log 2). -/
theorem RetryLoop.round (hg : IsRetry slave (receivedFrame g)) (hpq : PollAndResend slave f p q)
    (h : RetryLoop slave g f p (retryCycle g) handed s) :
    ∃ t, Host.Core.run Sys2Proof.core 6 s = .next t ∧
      RetryLoop slave g f p (retryCycle g) (handed ++ [f]) t := by
  obtain ⟨a, ha, hla⟩ := h.deliver hg
  obtain ⟨b, hb, hlb⟩ := hla.send
  obtain ⟨c, hc, hlc⟩ := hlb.poll hpq
  obtain ⟨d, hd, hld⟩ := hlc.deliver hg
  obtain ⟨e, he, hle⟩ := hld.send
  obtain ⟨t, ht, hlt⟩ := hle.resend hpq
  refine ⟨t, ?_, hlt⟩
  rw [run_of_next ha, run_of_next hb, run_of_next hc, run_of_next hd, run_of_next he, run_of_next ht]
  rfl

/-- `n` rounds of the loop. -/
theorem RetryLoop.rounds (hg : IsRetry slave (receivedFrame g)) (hpq : PollAndResend slave f p q)
    (h : RetryLoop slave g f p (retryCycle g) handed s) (n : Nat) :
    ∃ t, Host.Core.run Sys2Proof.core (6 * n) s = .next t ∧
      RetryLoop slave g f p (retryCycle g) (handed ++ List.replicate n f) t := by
  induction n generalizing handed s with
  | zero => exact ⟨s, rfl, by simpa using h⟩
  | succ n ih =>
    obtain ⟨u, hu, hlu⟩ := h.round hg hpq
    obtain ⟨t, ht, hlt⟩ := ih hlu
    refine ⟨t, ?_, by simpa [List.replicate_succ] using hlt⟩
    rw [show 6 * (n + 1) = 6 + 6 * n by omega, run_add hu, ht]

end

/-! ### The statement -/

/-- Settles O56: one invariant for each of its clauses. -/
theorem hangsHaveNoEnd : Obligations.HangsHaveNoEnd := by
  refine ⟨fun s t => ended_reaches, ?_, ?_, ?_, ?_, ?_⟩
  · intro s t m hc hr hq hl ht
    obtain ⟨hr', hl', hq', hc', hrec⟩ := reaches_keeps lockedDrain_next ⟨hr, hl, hq, hc, rfl⟩ ht
    exact ⟨hr', hl', hq', hc', hrec⟩
  · intro s p f hr hp htx hs
    have hb : Blocked p s.tx s.record s := ⟨hr, rfl, rfl, hs⟩
    have kept := blocked_next hp htx (rec := s.record)
    refine ⟨hangs_of_unfetched kept (fun t ht => ?_) hb, fun t ht => ?_⟩
    · exact ⟨not_ended_of_running ht.run, fetch_of_transmit ht.run hp⟩
    · obtain ⟨hr', ht', hrec, -⟩ := reaches_keeps kept hb ht
      exact ⟨hr'.trans hr.symm, ht', hrec⟩
  · intro s m hc hl hn
    exact neverEnds_of_lockHeld ⟨hl, hc.inDrain hl, hn⟩
  · intro s p slave g hr hp hm hv hs hacc hg haq hd htx hbus hcycle
    obtain ⟨q, hpq⟩ : ∃ q, PollAndResend slave s.pendingFrame p q := by
      rcases hp with rfl | ⟨n, rfl⟩
      · exact ⟨_, .inl ⟨rfl, rfl⟩⟩
      · exact ⟨_, .inr ⟨n, rfl, rfl⟩⟩
    have hloop : RetryLoop slave g s.pendingFrame p (retryCycle g) s.txRecord s :=
      ⟨⟨hcycle, hm, hv, hs, rfl, hacc, hd, haq, htx⟩, hr, hbus, rfl, by simp, by simp⟩
    refine ⟨hangs_of_going_on (retrying_goes_on hg hpq)
      ⟨p, _, _, .inl rfl, List.suffix_rfl, hloop⟩, fun n => ?_⟩
    obtain ⟨t, ht, hlt⟩ := hloop.rounds hg hpq n
    exact ⟨t, ht, hlt.run, hlt.sent⟩
  · intro s ho hh
    refine ⟨fun t ht => not_ended_of_call (reaches_keeps unreturned_next ⟨ho, hh⟩ ht).outer,
      fun hr hhost => ?_⟩
    refine hangs_of_unfetched idleInCall_next (fun t ht => ?_) ⟨hr, hhost, ho⟩
    exact ⟨not_ended_of_call ht.outer, fetch_of_no_command ht.run (by simp [ht.host])⟩

end Sys2Proof.Machine

namespace Sys2Proof.Machine

/-! ## What the CORE's and the HOST's steps write (10_state.md R38) -/

/-- The BUS and the fetch write only the receive queues, the slots, the wire and the inputs: a property that
reads none of these is kept by every step when every effect keeps it. -/
theorem next_keeps {I : State → Prop}
    (inputs : ∀ s rq aq tx wire host bus, I s →
      I { s with rq := rq, aq := aq, tx := tx, wire := wire, host := host, bus := bus })
    (effects : ∀ s t o, I s → Effect s o t → I t) {s t : State} (hs : I s) (h : Next s t) : I t := by
  rcases next_effects h with ⟨f, rest, -, rfl⟩ | ⟨k, rest, -, rfl⟩ | ⟨u, o, hu, -, he⟩
  · obtain ⟨rq, aq, e⟩ := deliver_same { s with bus := rest } f
    rw [e]
    exact inputs s rq aq s.tx s.wire s.host rest hs
  · obtain ⟨tx, wire, e⟩ := sendSlot_same { s with bus := rest } k
    rw [e]
    exact inputs s s.rq s.aq tx wire s.host rest hs
  · obtain ⟨⟨rq, aq, host, bus, rfl⟩, -⟩ := hu
    exact effects _ t o (inputs s rq aq s.tx s.wire host bus hs) he

section
variable {s t : State} {o : Option Instr}

/-- The parameters and the wire are not the CORE's to write (10_state.md R37; log 7). -/
theorem Effect.params_wire (h : Effect s o t) : t.params = s.params ∧ t.wire = s.wire := by
  cases h <;> exact ⟨rfl, rfl⟩

theorem Logged.record_grows {rec : List Observation} (h : Logged s rec) : s.record <+: rec := by
  obtain rfl | ⟨f, rfl⟩ := h
  · exact List.prefix_rfl
  · exact List.prefix_append ..

/-- The observation record only grows (10_state.md R32). -/
theorem Effect.record_grows (h : Effect s o t) : s.record <+: t.record := by
  cases h
  case polls hl | waitEnds hl _ => exact hl.record_grows.trans (List.prefix_append ..)
  case waitPolls hl _ | waitResends hl _ | found hl _ | full hl _ | failed hl | probePolls hl _ _ |
      probeResends hl _ => exact hl.record_grows
  all_goals simp

/-- INIT and NODEID_SET alone write the node identity (10_state.md R22). -/
theorem Effect.identity (h : Effect s o t) :
    (t.configured = s.configured ∧ t.nodeId = s.nodeId) ∨ o = some .init ∨
      ∃ id : BitVec 8, id.toNat < 128 ∧ o = some (.nodeidSet id) := by
  cases h
  case resets => exact .inr (.inl rfl)
  case renames id _ hid => exact .inr (.inr ⟨id, hid, rfl⟩)
  all_goals exact .inl ⟨rfl, rfl⟩

/-- INIT, and a SEND_REQ or a probe at its `Transmit`, write PENDING (10_state.md R25). -/
theorem Effect.pending (h : Effect s o t) :
    t.pending = s.pending ∨ o = some .init ∨ o = some .handler ∨
      (∃ slave tos control dlc msg, o = some (.sendReq slave tos control dlc msg)) ∨
      (∃ slave f, s.run = some (.sendReq slave f)) ∨ ∃ c n f, s.run = some (.probeSend c n f) := by
  cases h
  case resets => exact .inr (.inl rfl)
  case scans => exact .inr (.inr (.inl rfl))
  case requests => exact .inr (.inr (.inr (.inl ⟨_, _, _, _, _, rfl⟩)))
  case sendReqSent hr _ => exact .inr (.inr (.inr (.inr (.inl ⟨_, _, hr⟩))))
  case probeSent hr _ => exact .inr (.inr (.inr (.inr (.inr ⟨_, _, _, hr⟩))))
  all_goals exact .inl rfl

/-- What the end of the probe of `c` writes into the tables, from the incremented count `n`: a slot for a
candidate that answered, or an entry that is not Found (43_discovery.md R192, R194, R195). -/
def ProbeEnded (s t : State) (c : BitVec 7) (n : Nat) : Prop :=
  (∃ i pong, firstInvalid s.slaveRecord = some i ∧
    t.slaveIndex = s.slaveIndex.set (c.toNat - s.params.scanFirst.toNat) (.found i) ∧
    t.slaveRecord = s.slaveRecord.set i ⟨true, pong⟩) ∨
  (∃ e, (e = .absent ∨ e = .unresolved n ∧ n < s.params.scanRetryLimit) ∧
    t.slaveIndex = s.slaveIndex.set (c.toNat - s.params.scanFirst.toNat) e ∧
    t.slaveRecord = s.slaveRecord)

/-- INIT and the end of a probe write the discovery tables (10_state.md R26, R27). -/
theorem Effect.tables (h : Effect s o t) :
    (t.slaveIndex = s.slaveIndex ∧ t.slaveRecord = s.slaveRecord) ∨
    (o = some .init ∧ t.slaveIndex = initialIndex s.params ∧ t.slaveRecord = initialRecords s.params) ∨
    ∃ c n, s.run = some (.probeWait c n) ∧ t.run = some .drain ∧ ProbeEnded s t c n := by
  cases h
  case resets => exact .inr (.inl ⟨rfl, rfl, rfl⟩)
  case found c n rec pong i hr _ hi =>
    exact .inr (.inr ⟨c, n, hr, rfl, .inl ⟨i, pong, hi, rfl, rfl⟩⟩)
  case full c n rec hr _ _ =>
    exact .inr (.inr ⟨c, n, hr, rfl, .inr ⟨_, .inl rfl, rfl, rfl⟩⟩)
  case failed c n rec hr _ =>
    refine .inr (.inr ⟨c, n, hr, rfl, .inr ⟨_, ?_, rfl, rfl⟩⟩)
    split
    · exact .inl rfl
    · exact .inr ⟨rfl, by simp_all⟩
  all_goals exact .inl ⟨rfl, rfl⟩

/-- INIT and HANDLER write the cursor (10_state.md R28). -/
theorem Effect.cursor (h : Effect s o t) :
    t.scanCursor = s.scanCursor ∨ (o = some .init ∧ t.scanCursor = s.params.scanFirst) ∨
      (o = some .handler ∧ t.scanCursor = candidateSucc s.params s.scanCandidate) := by
  cases h
  case resets => exact .inr (.inl ⟨rfl, rfl⟩)
  case scans | scanHolds => exact .inr (.inr ⟨rfl, rfl⟩)
  case drains hc | drainsEnd hc => exact hc.imp_right fun e => .inr ⟨rfl, e⟩
  all_goals exact .inl rfl

/-- The result registers are written where a command returns its result (10_state.md R31). -/
theorem Effect.result (h : Effect s o t) :
    t.res = s.res ∨ (t.run = none ∧ t.record.getLast? = some (.result t.res)) := by
  cases h
  case ends | resets | renames | requests | again | polls | waitEnds | drainsEnd | sendReqSent |
      sentPlain | drained => exact .inr ⟨rfl, by simp⟩
  all_goals exact .inl rfl

/-- A candidate comes to be probed by a SCAN_STEP's choice of it, and its entry stays as it is while it
is probed (43_discovery.md R192). -/
theorem Effect.probing {p : Point} {c : BitVec 7} {n : Nat} (h : Effect s o t) (hr : t.run = some p)
    (hp : p.probed = some (c, n)) :
    t.slaveIndex = s.slaveIndex ∧
      (s.scanProbe = some (c, n) ∨ ∃ q, s.run = some q ∧ q.probed = some (c, n)) := by
  cases h
  case scans hc _ _ | scanHolds hc _ _ =>
    cases hr
    cases hp
    exact ⟨rfl, .inl hc⟩
  case holds => exact ⟨rfl, .inr ⟨p, hr, hp⟩⟩
  case probePolls => exact ⟨rfl, .inr ⟨p, hr, hp⟩⟩
  case probeResends hs _ _ | probeSent hs _ | probeResent hs _ =>
    cases hr
    cases hp
    exact ⟨rfl, .inr ⟨_, hs, rfl⟩⟩
  case replies hb | locks hb | unlocks hb | returns hb =>
    cases hr
    obtain rfl | ⟨f, rfl, -⟩ := hb <;> cases hp
  case returnsNop hs _ _ => exact nomatch hs.symm.trans hr
  all_goals cases hr <;> cases hp

end

/-- An effect's instruction is the one that the step runs. -/
theorem runs_of_map {s u : State} {o : Option Instr} {i : Instr} (h : s.runs = o.map (·, u))
    (ho : o = some i) : s.runs = some (i, u) := by
  rw [h, ho]
  rfl

/-- Settles O52: by the writers of each field. -/
theorem stateWriters : Obligations.StateWriters := by
  intro s t h
  rcases next_effects h with ⟨f, rest, -, rfl⟩ | ⟨k, rest, -, rfl⟩ | ⟨u, o, hu, hruns, he⟩
  · obtain ⟨rq, aq, e⟩ := deliver_same { s with bus := rest } f
    simp [e]
  · rcases sendSlot_cases { s with bus := rest } k with ⟨f, -, e⟩ | ⟨-, e⟩ <;> simp [e]
  · obtain ⟨⟨rq, aq, host, bus, rfl⟩, -⟩ := hu
    obtain ⟨hparams, hwire⟩ := he.params_wire
    refine ⟨hparams, he.record_grows, ?_, ?_, ?_, ?_, ?_, ?_⟩
    · rw [hwire]
    · intro hne
      rcases he.identity with ⟨hc, hn⟩ | hi | ⟨id, hid, hi⟩
      · exact (hne.elim (· hc) (· hn)).elim
      · exact ⟨_, .inl (runs_of_map hruns hi)⟩
      · exact ⟨_, .inr ⟨id, hid, runs_of_map hruns hi⟩⟩
    · intro hne
      rcases he.pending with hp | hi | hi | ⟨slave, tos, control, dlc, msg, hi⟩ | hr
      · exact absurd hp hne
      · exact .inl ⟨_, .inl (runs_of_map hruns hi)⟩
      · exact .inl ⟨_, .inr (.inl (runs_of_map hruns hi))⟩
      · exact .inl ⟨_, .inr (.inr ⟨slave, tos, control, dlc, msg, runs_of_map hruns hi⟩)⟩
      · exact .inr hr
    · intro hne
      rcases he.tables with ⟨hi, hr⟩ | ⟨hi, -⟩ | ⟨c, n, hs, ht, -⟩
      · exact (hne.elim (· hi) (· hr)).elim
      · exact .inl ⟨_, runs_of_map hruns hi⟩
      · exact .inr ⟨c, n, hs, ht⟩
    · intro hne
      rcases he.cursor with hc | ⟨hi, -⟩ | ⟨hi, -⟩
      · exact absurd hc hne
      · exact ⟨_, .inl (runs_of_map hruns hi)⟩
      · exact ⟨_, .inr (runs_of_map hruns hi)⟩
    · exact fun hne => he.result.resolve_left hne

end Sys2Proof.Machine

namespace Sys2Proof.Machine

/-! ## The discovery tables (10_state.md R26 to R28) -/

/-! ### The candidate range -/

theorem inCandidateRange_iff (p : Params) (c : BitVec 7) :
    inCandidateRange p c = true ↔ p.scanFirst.toNat ≤ c.toNat ∧ c.toNat ≤ p.scanLast.toNat := by
  simp [inCandidateRange]

/-- SUCC stays in the candidate range (43_discovery.md R191). -/
theorem candidateSucc_inRange {p : Params} (hp : p.scanFirst.toNat ≤ p.scanLast.toNat) {c : BitVec 7}
    (hc : inCandidateRange p c = true) : inCandidateRange p (candidateSucc p c) = true := by
  rw [inCandidateRange_iff] at hc ⊢
  unfold candidateSucc
  split
  · exact ⟨le_rfl, hp⟩
  · bv_omega

/-- The candidate that a SCAN_STEP examines is in the range (43_discovery.md R192). -/
theorem TableInv.scanCandidate_inRange {s : State} (hs : TableInv s) :
    inCandidateRange s.params s.scanCandidate = true := by
  obtain ⟨-, -, -, hrange, -⟩ := hs.valid
  unfold State.scanCandidate
  split
  · exact candidateSucc_inRange hrange hs.cursor
  · exact hs.cursor

theorem indexOf_of_inRange {s : State} {c : BitVec 7} (hc : inCandidateRange s.params c = true) :
    s.indexOf c = s.slaveIndex[c.toNat - s.params.scanFirst.toNat]? := by
  simp [State.indexOf, hc]

/-! ### The tables alone -/

/-- SLAVE_INDEX and SLAVE_RECORD are of their sizes, in their ranges, and one to one on Found: the part of
TableInv that speaks of the two tables alone. -/
structure TablesOk (p : Params) (index : List IndexEntry) (records : List SlaveRecord) : Prop where
  indexLength : index.length = p.rangeSize
  recordLength : records.length = p.slaveTableCapacity
  entries : ∀ e ∈ index, EntryOk p e
  oneSlot : ∀ j k i : Nat, index[j]? = some (.found i) → index[k]? = some (.found i) → j = k
  recorded : ∀ i : Nat, (∃ pong, records[i]? = some ⟨true, pong⟩) ↔ ∃ j : Nat, index[j]? = some (.found i)

theorem TableInv.tablesOk {s : State} (hs : TableInv s) :
    TablesOk s.params s.slaveIndex s.slaveRecord :=
  ⟨hs.indexLength, hs.recordLength, hs.entries, hs.oneSlot, hs.recorded⟩

theorem tablesOk_initial {p : Params} (hp : 1 ≤ p.scanRetryLimit) :
    TablesOk p (initialIndex p) (initialRecords p) where
  indexLength := by simp [initialIndex]
  recordLength := by simp [initialRecords]
  entries := fun e he => List.eq_of_mem_replicate he ▸ hp
  oneSlot := by simp [initialIndex, List.getElem?_replicate]
  recorded := by simp [initialIndex, initialRecords, List.getElem?_replicate]

section
variable {p : Params} {index : List IndexEntry} {records : List SlaveRecord} {k m : Nat}

/-- Where an Unresolved entry is replaced, the Found entries are the old ones and perhaps the new one. -/
theorem getElem?_set_eq_found (hk : index[k]? = some (.unresolved m)) (e : IndexEntry) (j i : Nat) :
    (index.set k e)[j]? = some (.found i) ↔ (j = k ∧ e = .found i) ∨ index[j]? = some (.found i) := by
  by_cases hj : j = k
  · subst hj
    obtain ⟨hlt, hold⟩ := List.getElem?_eq_some_iff.1 hk
    simp [hlt, hold]
  · simp [List.getElem?_set_ne (Ne.symm hj), hj]

theorem TablesOk.entries_set (h : TablesOk p index records) {e : IndexEntry} (he : EntryOk p e) :
    ∀ x ∈ index.set k e, EntryOk p x := by
  intro x hx
  rcases List.mem_or_eq_of_mem_set hx with hx | rfl
  · exact h.entries x hx
  · exact he

/-- A probe without an allocation leaves the Found entries as they are (43_discovery.md R195). -/
theorem TablesOk.set_not_found (h : TablesOk p index records) (hk : index[k]? = some (.unresolved m))
    {e : IndexEntry} (he : EntryOk p e) (hne : ∀ i, e ≠ .found i) :
    TablesOk p (index.set k e) records where
  indexLength := by simpa using h.indexLength
  recordLength := h.recordLength
  entries := h.entries_set he
  oneSlot := by simpa [getElem?_set_eq_found hk, hne] using h.oneSlot
  recorded := by simpa [getElem?_set_eq_found hk, hne] using h.recorded

/-- ALLOCATE gives the candidate a slot that no other one has (43_discovery.md R194). -/
theorem TablesOk.set_found (h : TablesOk p index records) (hk : index[k]? = some (.unresolved m))
    {i : Nat} (hi : firstInvalid records = some i) (pong : Message) :
    TablesOk p (index.set k (.found i)) (records.set i ⟨true, pong⟩) := by
  obtain ⟨⟨r, hr, hinvalid⟩, -⟩ := firstInvalid_eq_some hi
  obtain ⟨hlt, -⟩ := List.getElem?_eq_some_iff.1 hr
  have unused (j : Nat) : index[j]? ≠ some (.found i) := by
    intro hj
    obtain ⟨pong', hp⟩ := (h.recorded i).2 ⟨j, hj⟩
    simp_all
  refine ⟨by simpa using h.indexLength, by simpa using h.recordLength,
    h.entries_set (h.recordLength ▸ hlt : i < p.slaveTableCapacity), fun j j' i' hj hj' => ?_, fun i' => ?_⟩
  · rw [getElem?_set_eq_found hk] at hj hj'
    rcases hj with ⟨rfl, e⟩ | hj <;> rcases hj' with ⟨rfl, e'⟩ | hj'
    · rfl
    · cases e
      exact absurd hj' (unused j')
    · cases e'
      exact absurd hj (unused j)
    · exact h.oneSlot j j' i' hj hj'
  · simp only [getElem?_set_eq_found hk]
    by_cases hii : i = i'
    · subst hii
      simp [hlt]
    · simpa [List.getElem?_set_ne hii, hii] using h.recorded i'

end

/-! ### The tables over every step -/

/-- A candidate being probed is in the range, and the Unresolved entry its probe started from is there. -/
theorem TableInv.probed_entry {s : State} (hs : TableInv s) {p : Point} {c : BitVec 7} {n : Nat}
    (hr : s.run = some p) (hp : p.probed = some (c, n)) :
    ∃ m, s.slaveIndex[c.toNat - s.params.scanFirst.toNat]? = some (.unresolved m) ∧ n = m + 1 := by
  obtain ⟨hc, m, hm, hn⟩ := hs.probing p c n hr hp
  exact ⟨m, indexOf_of_inRange hc ▸ hm, hn⟩

theorem TableInv.tablesOk_effect {s t : State} {o : Option Instr} (hs : TableInv s) (h : Effect s o t) :
    TablesOk s.params t.slaveIndex t.slaveRecord := by
  obtain ⟨-, -, -, -, hlimit, -⟩ := hs.valid
  rcases h.tables with ⟨hi, hr⟩ | ⟨-, hi, hr⟩ | ⟨c, n, hrun, -, hend⟩
  · rw [hi, hr]
    exact hs.tablesOk
  · rw [hi, hr]
    exact tablesOk_initial hlimit
  · obtain ⟨m, hm, -⟩ := hs.probed_entry hrun rfl
    rcases hend with ⟨i, pong, hfree, hi, hr⟩ | ⟨e, he, hi, hr⟩ <;> rw [hi, hr]
    · exact hs.tablesOk.set_found hm hfree pong
    · obtain rfl | ⟨rfl, hn⟩ := he
      · exact hs.tablesOk.set_not_found hm trivial (by simp)
      · exact hs.tablesOk.set_not_found hm hn (by simp)

theorem TableInv.cursor_effect {s t : State} {o : Option Instr} (hs : TableInv s) (h : Effect s o t) :
    inCandidateRange s.params t.scanCursor = true := by
  obtain ⟨-, -, -, hrange, -⟩ := hs.valid
  rcases h.cursor with e | ⟨-, e⟩ | ⟨-, e⟩ <;> rw [e]
  · exact hs.cursor
  · exact (inCandidateRange_iff ..).2 ⟨le_rfl, hrange⟩
  · exact candidateSucc_inRange hrange hs.scanCandidate_inRange

/-- Every effect keeps the discovery tables. -/
theorem TableInv.effect {s t : State} {o : Option Instr} (hs : TableInv s) (h : Effect s o t) :
    TableInv t := by
  obtain ⟨hparams, -⟩ := h.params_wire
  obtain ⟨hindex, hrecord, hentries, hone, hrecorded⟩ := hs.tablesOk_effect h
  rw [← hparams] at hindex hrecord hentries
  refine ⟨hparams ▸ hs.valid, hindex, hrecord, hentries, hone, hrecorded,
    hparams ▸ hs.cursor_effect h, fun p c n hr hp => ?_⟩
  obtain ⟨hkept, hfrom⟩ := h.probing hr hp
  have hindexOf : t.indexOf c = s.indexOf c := by simp [State.indexOf, hparams, hkept]
  rw [hparams, hindexOf]
  rcases hfrom with hscan | ⟨q, hq, hqp⟩
  · obtain ⟨rfl, -, hentry⟩ := scanProbe_eq_some hscan
    exact ⟨hs.scanCandidate_inRange, hentry⟩
  · exact hs.probing q c n hq hqp

/-- Settles O45: the tables through their writers, the probed candidate from the SCAN_STEP that chose it. -/
theorem tableInvKept : Obligations.TableInvKept := fun _ _ =>
  next_keeps (fun _ _ _ _ _ _ _ ⟨hv, hi, hr, he, ho, hrec, hc, hp⟩ => ⟨hv, hi, hr, he, ho, hrec, hc, hp⟩)
    fun _ _ _ => TableInv.effect

end Sys2Proof.Machine

namespace Sys2Proof.Machine

/-! ## The control point, LOCKED and BUDGET (10_state.md R21, R29, R30) -/

section
variable {s t : State} {o : Option Instr}

/-! ### Commands under a `Call` -/

/-- HANDLER does not run under a `Call` (44_dispatcher.md R238). -/
theorem ControlInv.no_call_of_handler (hs : ControlInv s) {p : Point} (hr : s.run = some p)
    (hp : p.inHandler = true) : s.outer = none := by
  cases ho : s.outer with
  | none => rfl
  | some c => simp [hs.nested p hr (by simp [ho])] at hp

theorem ControlInv.nested_effect (hs : ControlInv s) (h : Effect s o t) :
    ∀ p, t.run = some p → t.outer.isSome = true → p.inHandler = false := by
  have handler {q : Point} (hr : s.run = some q) (hq : q.inHandler = true) :
      ∀ p : Point, s.outer.isSome = true → p.inHandler = false :=
    fun _ ho => by simp [hs.no_call_of_handler hr hq] at ho
  intro p hr ho
  cases h
  case holds | probePolls | returnsNop => exact hs.nested p hr ho
  case scans hcall _ _ _ _ | scanHolds hcall _ _ _ _ | drains hcall _ => simp [hcall] at ho
  case replies hrun _ | locks hrun _ _ | unlocks hrun _ _ | found hrun _ _ | full hrun _ _ | failed hrun _ |
      probeResends hrun _ _ | probeSent hrun _ | probeResent hrun _ | replySent hrun _ =>
    exact handler hrun rfl p ho
  case returns => cases ho
  all_goals cases hr <;> rfl

/-- A `Call` comes to be with a pending reply to a master ID, or with none (44_dispatcher.md R244). -/
theorem Effect.reply_master (h : Effect s o t) {c : HeldCall} {m : BitVec 7} (hc : t.outer = some c)
    (hm : c.replyTo = some m) : s.outer = some c ∨ isMasterId m = true := by
  cases h
  case calls ms ev back _ _ _ hback =>
    cases hc
    obtain rfl | rfl := hback <;> cases hm
    exact .inr (isMasterId_masterOf ms)
  case returns => cases hc
  all_goals exact .inl hc

/-! ### LOCKED -/

/-- Only a Lock at the drain takes the lock, for its sender (44_dispatcher.md R225). -/
theorem Effect.lock_taken (h : Effect s o t) {m : BitVec 3} (hm : t.locked = some m) :
    s.locked = some m ∨ ∃ q, o = some (.etosLock q) ∧ q.ms = m ∧ ∃ p, t.run = some p ∧ p.inDrain = true := by
  cases h
  case locks q p _ _ hback =>
    exact .inr ⟨q, rfl, Option.some.inj hm, p, rfl, hback.inDrain⟩
  case unlocks | drains | drainsEnd | found | full | failed => cases hm
  all_goals exact .inl hm

theorem ControlInv.lockScoped_effect (hs : ControlInv s) (h : Effect s o t) (m : BitVec 3)
    (hm : t.locked = some m) : t.outer.isSome = true ∨ ∃ p, t.run = some p ∧ p.inDrain = true := by
  rcases h.lock_taken hm with hl | ⟨-, -, -, hp⟩
  · rcases (hs.inDrain hl).effect (by simp [hl]) h with ⟨-, hp⟩ | ⟨ho, -⟩
    · exact .inr hp
    · exact .inl ho
  · exact .inr hp

/-! ### BUDGET -/

/-- WAIT_ACK, or the probe's WAIT_ACK, is running. -/
def State.Waiting (s : State) : Prop := ∃ p, s.run = some p ∧ p.inWait = true

theorem not_waiting_of_run {p : Point} (hr : s.run = some p) (hp : p.inWait = false) : ¬ s.Waiting := by
  simp [State.Waiting, hr, hp]

theorem BackToDrain.not_inWait {p : Point} (h : BackToDrain p) : p.inWait = false := by
  obtain rfl | ⟨f, rfl, -⟩ := h <;> rfl

/-- BUDGET ends with the wait, is counted down or filled up while it goes on, and is otherwise left as it
is (42_master_request.md R154). -/
theorem Effect.budget (h : Effect s o t) :
    (t.budget = s.budget ∧ (t.Waiting ↔ s.Waiting)) ∨ (t.budget = none ∧ ¬ t.Waiting) ∨
    (t.Waiting ∧ ∃ b, t.budget = some b ∧ (b = s.params.ackPollBudget ∨
      0 < b ∧ (b < s.params.ackPollBudget ∨ b < s.budget.getD 0))) := by
  cases h
  case holds | returnsNop => exact .inl ⟨rfl, .rfl⟩
  case waitEnds | found | full | failed => exact .inr (.inl ⟨rfl, by simp [State.Waiting, Point.inWait]⟩)
  case scans | waitSent | probeSent | probeResent =>
    exact .inr (.inr ⟨⟨_, rfl, rfl⟩, _, rfl, .inl rfl⟩)
  case waitPolls hfrom _ hpos =>
    refine .inr (.inr ⟨⟨_, rfl, rfl⟩, _, rfl, .inr ⟨hpos, ?_⟩⟩)
    exact hfrom.imp (·.2.2) (·.2.2)
  case probePolls hr _ hpos hlt =>
    exact .inr (.inr ⟨⟨_, hr, rfl⟩, _, rfl, .inr ⟨hpos, .inr hlt⟩⟩)
  case waitResends hfrom _ _ =>
    rcases hfrom with ⟨-, -, rfl⟩ | ⟨hr, -, rfl⟩
    · exact .inr (.inr ⟨⟨_, rfl, rfl⟩, _, rfl, .inl rfl⟩)
    · exact .inl ⟨rfl, iff_of_true ⟨_, rfl, rfl⟩ ⟨_, hr, rfl⟩⟩
  case probeResends hr _ _ => exact .inl ⟨rfl, iff_of_true ⟨_, rfl, rfl⟩ ⟨_, hr, rfl⟩⟩
  case replies hr hp | locks hr _ hp | unlocks hr _ hp =>
    exact .inl ⟨rfl, iff_of_false (not_waiting_of_run rfl hp.not_inWait) (not_waiting_of_run hr rfl)⟩
  case returns hr _ _ hp =>
    exact .inl ⟨rfl, iff_of_false (not_waiting_of_run rfl hp.not_inWait) (by simp [State.Waiting, hr])⟩
  case sentPlain hr _ =>
    refine .inl ⟨rfl, iff_of_false (by simp [State.Waiting]) ?_⟩
    rcases hr with hr | hr <;> simp [State.Waiting, Point.inWait, hr]
  all_goals exact .inl ⟨rfl, by simp [State.Waiting, Point.inWait, *]⟩

theorem ControlInv.budgetScoped_effect (hs : ControlInv s) (h : Effect s o t) :
    t.budget.isSome = true ↔ t.Waiting := by
  rcases h.budget with ⟨hb, hw⟩ | ⟨hb, hw⟩ | ⟨hw, b, hb, -⟩
  · rw [hb, hw]
    exact hs.budgetScoped
  · simp [hb, hw]
  · simp [hb, hw]

theorem ControlInv.budgetRange_effect (hs : ControlInv s) (h : Effect s o t) (b : Nat)
    (hb : t.budget = some b) : 1 ≤ b ∧ b ≤ s.params.ackPollBudget := by
  have hfull := hs.budgetPositive
  rcases h.budget with ⟨e, -⟩ | ⟨e, -⟩ | ⟨-, b', e, hb'⟩ <;> rw [hb] at e
  · exact hs.budgetRange b e.symm
  · cases e
  · obtain rfl := Option.some.inj e
    have hold : s.budget.getD 0 ≤ s.params.ackPollBudget := by
      cases hc : s.budget with
      | none => exact Nat.zero_le _
      | some d => exact (hs.budgetRange d hc).2
    omega

/-! ### The statement -/

/-- Every effect keeps the control point, LOCKED and BUDGET where they may exist. -/
theorem ControlInv.effect (hs : ControlInv s) (h : Effect s o t) : ControlInv t := by
  obtain ⟨hparams, -⟩ := h.params_wire
  refine ⟨hparams ▸ hs.budgetPositive, hs.nested_effect h, hs.lockScoped_effect h,
    hs.budgetScoped_effect h, hparams ▸ hs.budgetRange_effect h, fun c m hc hm => ?_⟩
  exact (h.reply_master hc hm).elim (hs.replyMaster c m · hm) id

end

/-- Settles O46: each clause over every effect. -/
theorem controlInvKept : Obligations.ControlInvKept := fun _ _ =>
  next_keeps (fun _ _ _ _ _ _ _ ⟨hp, hn, hl, hb, hr, hm⟩ => ⟨hp, hn, hl, hb, hr, hm⟩)
    fun _ _ _ => ControlInv.effect

end Sys2Proof.Machine

namespace Sys2Proof.Machine

/-! ## Power-on and reset (10_state.md R39; 70_reset_and_hazards.md R310, R311) -/

/-- The parameters after reset are in their ranges, whatever the OPEN ones are (00_scope.md R6; log 3). -/
theorem config_params_valid : Config.params.Valid := by
  have hcapacity := Config.slaveTableCapacityPred.isLt
  have hlast := Config.scanLast.isLt
  have hfirst := Config.scanFirst.isLt
  simp only [Params.Valid, Config.params, BitVec.toNat_ofNat]
  omega

/-- Settles O50: the fields as they are defined, and the ranges of the parameters of Config. -/
theorem resetState : Obligations.ResetState :=
  ⟨fun _ => rfl, rfl, config_params_valid, rfl, rfl, rfl⟩

theorem busyFrames_replicate_free (n : Nat) : busyFrames (List.replicate n .free) = [] := by
  induction n with
  | zero => rfl
  | succ n ih => exact ih

section
variable {p : Params} (hp : p.Valid)
include hp

theorem queueInv_powerOn : QueueInv (State.powerOn p) := by
  obtain ⟨-, -, -, -, -, hdepth, -⟩ := hp
  exact ⟨hdepth, Nat.zero_le _, Nat.zero_le _, by simp [State.powerOn], by simp [State.powerOn]⟩

theorem tableInv_powerOn : TableInv (State.powerOn p) := by
  have ⟨_, _, _, hrange, hlimit, _⟩ := hp
  obtain ⟨hindex, hrecord, hentries, hone, hrecorded⟩ := tablesOk_initial hlimit
  exact ⟨hp, hindex, hrecord, hentries, hone, hrecorded, (inCandidateRange_iff ..).2 ⟨le_rfl, hrange⟩,
    by simp [State.powerOn]⟩

theorem controlInv_powerOn : ControlInv (State.powerOn p) where
  budgetPositive := hp.1
  nested := by simp [State.powerOn]
  lockScoped := by simp [State.powerOn]
  budgetScoped := by simp [State.powerOn]
  budgetRange := by simp [State.powerOn]
  replyMaster := by simp [State.powerOn]

end

theorem probeInv_powerOn (p : Params) : ProbeInv (State.powerOn p) where
  role := by simp [State.powerOn]
  pending := by simp [State.powerOn]
  request := by simp [State.powerOn]

theorem frameInv_powerOn (p : Params) : FrameInv (State.powerOn p) where
  handed := by simp [State.powerOn, State.txRecord]
  held := by simp [State.powerOn]
  pendingDlc := Nat.zero_le 8
  pendingData := zeroFrom_zero_message 0
  pendingId := by simp [State.powerOn, Pending.none]
  toSend := by simp [State.powerOn]
  toProbe := by simp [State.powerOn]

theorem wireInv_powerOn (p : Params) : WireInv (State.powerOn p) := by
  refine ⟨List.length_replicate, ?_⟩
  simp [State.powerOn, busyFrames_replicate_free, State.txRecord]

/-- Settles O51: each invariant at power-on, with reset as the power-on of Config's parameters. -/
theorem resetMeetsInvariants : Obligations.ResetMeetsInvariants := by
  refine (and_iff_left_of_imp fun meets => meets _ config_params_valid).2 fun p hp => ?_
  exact ⟨queueInv_powerOn hp, tableInv_powerOn hp, controlInv_powerOn hp, probeInv_powerOn p,
    frameInv_powerOn p, wireInv_powerOn p⟩

end Sys2Proof.Machine

namespace Sys2Proof.Machine

/-! ## The lock's lifetime (20_memory.md R61; 44_dispatcher.md R221, R225, R226) -/

theorem controlPoint_eq_idle_iff (s : State) : s.controlPoint = .idle ↔ s.run = none ∧ s.outer = none := by
  cases hr : s.run <;> cases ho : s.outer <;> simp [State.controlPoint, hr, ho]

/-- Past its scanner step, HANDLER is at a statement of its own or holds at its `Call` (10_state.md R21). -/
theorem InDrain.controlPoint_ne_idle {s : State} (h : InDrain s) : s.controlPoint ≠ .idle := by
  rw [Ne, controlPoint_eq_idle_iff]
  rintro ⟨hr, ho⟩
  simpa [ho] using h.outer_isSome (by simp [hr])

/-- A BUS step writes only queues, slots and the wire; any other step has an effect that starts from `s`
with its inputs taken, and runs the effect's instruction. -/
theorem next_inputs_or_effect {s t : State} (h : Next s t) :
    (∃ rq aq tx wire bus, t = { s with rq := rq, aq := aq, tx := tx, wire := wire, bus := bus }) ∨
    ∃ o u, (∃ rq aq host bus, u = { s with rq := rq, aq := aq, host := host, bus := bus }) ∧
      (∀ i, o = some i → s.runs = some (i, u)) ∧ Effect u o t := by
  rcases next_effects h with ⟨f, rest, -, rfl⟩ | ⟨k, rest, -, rfl⟩ | ⟨u, o, hu, hruns, he⟩
  · obtain ⟨rq, aq, e⟩ := deliver_same { s with bus := rest } f
    exact .inl ⟨rq, aq, s.tx, s.wire, rest, e⟩
  · obtain ⟨tx, wire, e⟩ := sendSlot_same { s with bus := rest } k
    exact .inl ⟨s.rq, s.aq, tx, wire, rest, e⟩
  · exact .inr ⟨o, u, hu.1, fun _ => runs_of_map hruns, he⟩

/-- A locked drain goes on over every step, the BUS's too. -/
theorem InDrain.next {s t : State} (hd : InDrain s) (hl : s.locked ≠ none) (h : Next s t) : InDrain t := by
  rcases next_inputs_or_effect h with ⟨rq, aq, tx, wire, bus, rfl⟩ | ⟨o, -, ⟨rq, aq, host, bus, rfl⟩, -, he⟩
  · exact hd
  · exact InDrain.effect (s := { s with rq := rq, aq := aq, host := host, bus := bus }) hd hl he

/-- A lock stays, or the step runs its holder's Unlock (44_dispatcher.md R226). -/
theorem InDrain.locked_next {s t : State} {m : BitVec 3} (hd : InDrain s) (hl : s.locked = some m)
    (h : Next s t) : t.locked = some m ∨ ∃ q u, s.runs = some (.etosUnlock q, u) ∧ q.ms = m := by
  rcases next_inputs_or_effect h with ⟨rq, aq, tx, wire, bus, rfl⟩ |
    ⟨o, u, ⟨rq, aq, host, bus, rfl⟩, hruns, he⟩
  · exact .inl hl
  · by_cases hunlock : ∃ q, o = some (.etosUnlock q) ∧ q.ms = m
    · obtain ⟨q, ho, hq⟩ := hunlock
      exact .inr ⟨q, _, hruns _ ho, hq⟩
    · have hd' : InDrain { s with rq := rq, aq := aq, host := host, bus := bus } := hd
      exact .inl (hd'.locked_effect hl he fun q ho _ hq => hunlock ⟨q, ho, hq⟩)

/-- A lock was there, or the step runs a Lock of its holder (44_dispatcher.md R225). -/
theorem locked_of_next {s t : State} {m : BitVec 3} (h : Next s t) (hm : t.locked = some m) :
    s.locked = some m ∨ ∃ q u, s.runs = some (.etosLock q, u) ∧ q.ms = m := by
  rcases next_inputs_or_effect h with ⟨rq, aq, tx, wire, bus, rfl⟩ |
    ⟨o, u, ⟨rq, aq, host, bus, rfl⟩, hruns, he⟩
  · exact .inl hm
  · rcases he.lock_taken hm with hl | ⟨q, ho, hq, -⟩
    · exact .inl hl
    · exact .inr ⟨q, _, hruns _ ho, hq⟩

/-- Settles O54: a locked HANDLER is in its drain, where only an Unlock that the arbiter lets through
clears the lock and only an unlocked poll ends the command. -/
theorem lockLifetime : Obligations.LockLifetime := by
  intro s t hs h
  refine ⟨fun m hm => (hs.inDrain hm).locked_next hm h, fun m hm => locked_of_next h hm, fun hl => ?_⟩
  obtain ⟨m, hm⟩ := Option.ne_none_iff_exists'.1 hl
  exact ((hs.inDrain hm).next hl h).controlPoint_ne_idle

end Sys2Proof.Machine

namespace Sys2Proof.Machine

/-! ## The transmit slots and the transmit record (20_memory.md R58; 40_codec.md R108, R109) -/

section
variable {s t : State} {o : Option Instr}

/-! ### What enters the transmit record (10_state.md R32) -/

/-- Adding frames that are not transmitted leaves the transmit record as it is. -/
theorem txRecord_of_logged (h : Logged s t.record) : t.txRecord = s.txRecord := by
  obtain e | ⟨f, e⟩ := h <;> simp [State.txRecord, e]

@[simp] theorem finish_txRecord (s : State) (r : Result) : (s.finish r).txRecord = s.txRecord := by
  simp [State.txRecord]

@[simp] theorem enterCall_txRecord (s : State) (ev : CallEvent) (m : Option (BitVec 7)) :
    (s.enterCall ev m).txRecord = s.txRecord := by
  simp [State.txRecord]

theorem txRecord_of_transmit {f : Frame} (h : t.record = s.record ++ [.transmit f]) :
    t.txRecord = s.txRecord ++ [f] := by
  simp [State.txRecord, h]

/-- A step of the CORE or the HOST leaves the slots and the transmit record as they are, or places one
frame in a slot and records it (40_codec.md R108). -/
theorem Effect.transmits (h : Effect s o t) :
    (t.tx = s.tx ∧ t.txRecord = s.txRecord) ∨
      ∃ f, placeFrame f s.tx = some t.tx ∧ t.txRecord = s.txRecord ++ [f] := by
  cases h
  case requests hp | again hp | sendReqSent hp | sentPlain hp =>
    exact .inr ⟨_, hp, (finish_txRecord ..).trans (txRecord_of_transmit rfl)⟩
  case scans hp | waitSent hp | probeSent hp | probeResent hp | replySent hp =>
    exact .inr ⟨_, hp, txRecord_of_transmit rfl⟩
  case polls hl | waitEnds hl _ => exact .inl ⟨rfl, (finish_txRecord ..).trans (txRecord_of_logged hl)⟩
  case waitPolls hl _ | waitResends hl _ | found hl _ | full hl _ | failed hl | probePolls hl _ _ |
      probeResends hl _ => exact .inl ⟨rfl, txRecord_of_logged hl⟩
  case ends | resets | renames | drainsEnd | drained => exact .inl ⟨rfl, finish_txRecord ..⟩
  case calls => exact .inl ⟨rfl, enterCall_txRecord ..⟩
  all_goals exact .inl ⟨rfl, rfl⟩

/-! ### One slot -/

/-- A frame is placed in a single slot only when that slot is free. -/
theorem placeFrame_of_length_one {f : Frame} {tx tx' : List Slot} (hlen : tx.length = 1)
    (h : placeFrame f tx = some tx') : tx = [.free] ∧ tx' = [.busy f] := by
  obtain ⟨slot, rfl⟩ := List.length_eq_one_iff.1 hlen
  cases slot with
  | free => exact ⟨rfl, (Option.some.inj h).symm⟩
  | busy g => cases h

/-- The node has one slot, and the wire and then the slot hold the transmit record in its order. -/
def SlotInOrder (s : State) : Prop :=
  s.tx.length = 1 ∧ s.wire ++ busyFrames s.tx = s.txRecord

theorem slotInOrder_powerOn {p : Params} (hp : p.txSlots = 1) : SlotInOrder (State.powerOn p) := by
  simp [SlotInOrder, State.powerOn, hp, busyFrames, State.txRecord]

/-- The BUS moves the slot's frame to the end of the wire, where it stands after the frames sent before it
(40_codec.md R109). -/
theorem SlotInOrder.sendSlot (hs : SlotInOrder s) (k : Nat) : SlotInOrder (s.sendSlot k) := by
  obtain ⟨hlen, horder⟩ := hs
  rcases sendSlot_cases s k with ⟨f, hk, e⟩ | ⟨-, e⟩ <;> rw [e]
  · obtain ⟨slot, htx⟩ := List.length_eq_one_iff.1 hlen
    rw [htx, List.getElem?_singleton] at hk
    obtain ⟨rfl, hslot⟩ := Option.ite_none_right_eq_some.1 hk
    obtain rfl := Option.some.inj hslot
    rw [htx] at horder
    refine ⟨by simp [htx], ?_⟩
    calc (s.wire ++ [f]) ++ busyFrames (s.tx.set 0 .free)
        = s.wire ++ busyFrames [.busy f] := by simp [htx, busyFrames]
      _ = s.txRecord := horder
  · exact ⟨hlen, horder⟩

/-- A frame is handed over only when the slot is free, and so all frames before it are on the wire
(40_codec.md R108). -/
theorem SlotInOrder.effect (hs : SlotInOrder s) (h : Effect s o t) : SlotInOrder t := by
  obtain ⟨hlen, horder⟩ := hs
  obtain ⟨-, hwire⟩ := h.params_wire
  rcases h.transmits with ⟨htx, hrecord⟩ | ⟨f, hplace, hrecord⟩
  · rw [SlotInOrder, htx, hwire, hrecord]
    exact ⟨hlen, horder⟩
  · obtain ⟨hfree, hbusy⟩ := placeFrame_of_length_one hlen hplace
    rw [hfree] at horder
    rw [SlotInOrder, hbusy, hwire, hrecord, ← horder]
    simp [busyFrames]

theorem SlotInOrder.next (hs : SlotInOrder s) (h : Next s t) : SlotInOrder t := by
  rcases next_effects h with ⟨f, rest, -, rfl⟩ | ⟨k, rest, -, rfl⟩ | ⟨u, o, hu, -, he⟩
  · obtain ⟨rq, aq, e⟩ := deliver_same { s with bus := rest } f
    rw [e]
    exact hs
  · exact SlotInOrder.sendSlot (s := { s with bus := rest }) hs k
  · obtain ⟨⟨rq, aq, host, bus, rfl⟩, -⟩ := hu
    exact SlotInOrder.effect (s := { s with rq := rq, aq := aq, host := host, bus := bus }) hs he

end

/-- Settles O13: power-on has the order, and both a frame that enters the slot and one that leaves it
keep it. -/
theorem singleSlotOrder : Obligations.SingleSlotOrder :=
  ⟨fun _ hp => slotInOrder_powerOn hp, fun _ _ hlen horder h => SlotInOrder.next ⟨hlen, horder⟩ h⟩

end Sys2Proof.Machine

namespace Sys2Proof.Machine

/-! ## The encodings (30_encoding.md R70 to R81) -/

/-! ### The FrameID (40_codec.md R101, R102) -/

/-- The fields of a FrameID stand next to each other. -/
theorem pack_eq_append (u : IdFields) :
    pack u = (u.control ++ u.tos ++ u.ms ++ u.node ++ u.ack).cast (by rfl) := by
  ext k hk
  simp [pack]
  grind

@[simp] theorem unpack_pack (u : IdFields) : unpack (pack u) = u := by
  simp (disch := decide) only [unpack, pack_eq_append, BitVec.extractLsb'_cast,
    BitVec.extractLsb'_append_eq_of_le, Nat.reduceSub, BitVec.extractLsb'_append_eq_right,
    BitVec.extractLsb'_eq_self]

/-! ### The payload bytes (30_encoding.md R80) -/

@[simp] theorem ofData_toData (m : Message) : Message.ofData m.toData = m := by
  simp (disch := decide) only [Message.toData, Message.ofData, BitVec.extractLsb'_cast,
    BitVec.extractLsb'_append_eq_of_le, Nat.reduceSub, BitVec.extractLsb'_append_eq_right,
    BitVec.extractLsb'_eq_self]

theorem toData_ofData (d : BitVec 64) : (Message.ofData d).toData = d := by
  simp (disch := rfl) only [Message.toData, Message.ofData, BitVec.cast_eq,
    BitVec.extractLsb'_append_extractLsb'_eq_extractLsb']
  exact BitVec.extractLsb'_eq_self

/-! ### The command word (30_encoding.md R79) -/

section
variable (op dlc : BitVec 4) (id : BitVec 8) (slave : BitVec 7) (tos : BitVec 2) (control : BitVec 16)

/-- The fields of a command word stand next to each other, with its reserved bits between them. -/
theorem cmdWord_eq_append : cmdWord op dlc id tos control =
    (0#16 ++ control ++ 0#14 ++ tos ++ id ++ dlc ++ op).cast (by rfl) := by
  ext k hk
  simp [cmdWord]
  grind

@[simp] theorem cmdOp_cmdWord : cmdOp (cmdWord op dlc id tos control) = op := by
  simp only [cmdOp, cmdWord_eq_append, BitVec.extractLsb'_cast, BitVec.extractLsb'_append_eq_right]

@[simp] theorem cmdDlc_cmdWord : cmdDlc (cmdWord op dlc id tos control) = dlc := by
  simp (disch := decide) only [cmdDlc, cmdWord_eq_append, BitVec.extractLsb'_cast,
    BitVec.extractLsb'_append_eq_of_le, Nat.reduceSub, BitVec.extractLsb'_append_eq_right]

@[simp] theorem cmdId_cmdWord : cmdId (cmdWord op dlc id tos control) = id := by
  simp (disch := decide) only [cmdId, cmdWord_eq_append, BitVec.extractLsb'_cast,
    BitVec.extractLsb'_append_eq_of_le, Nat.reduceSub, BitVec.extractLsb'_append_eq_right]

@[simp] theorem cmdNode_cmdWord : cmdNode (cmdWord op dlc (slave.setWidth 8) tos control) = slave := by
  simp (disch := decide) only [cmdNode, cmdWord_eq_append, BitVec.extractLsb'_cast,
    BitVec.extractLsb'_append_eq_of_le, Nat.reduceSub, BitVec.extractLsb'_append_eq_of_add_le]
  rw [← BitVec.setWidth_eq_extractLsb' (by decide), BitVec.setWidth_setWidth_of_le _ (by decide),
    BitVec.setWidth_eq]

@[simp] theorem cmdTos_cmdWord : cmdTos (cmdWord op dlc id tos control) = tos := by
  simp (disch := decide) only [cmdTos, cmdWord_eq_append, BitVec.extractLsb'_cast,
    BitVec.extractLsb'_append_eq_of_le, Nat.reduceSub, BitVec.extractLsb'_append_eq_right]

@[simp] theorem cmdControl_cmdWord : cmdControl (cmdWord op dlc id tos control) = control := by
  simp (disch := decide) only [cmdControl, cmdWord_eq_append, BitVec.extractLsb'_cast,
    BitVec.extractLsb'_append_eq_of_le, Nat.reduceSub, BitVec.extractLsb'_append_eq_right]

end

/-! ### The ETOS (30_encoding.md R76, R78) -/

section
variable (high etos : BitVec 8)

@[simp] theorem etosOf_append : etosOf (high ++ etos) = etos := by
  ext k hk
  simp [etosOf]
  grind

@[simp] theorem controlHigh_append : BitVec.extractLsb' 8 8 (high ++ etos) = high := by
  ext k hk
  simp
  grind

end

/-- An application row's lead is the highest set bit of `control[7:4]`. -/
theorem etosLeads_iff (control : BitVec 16) {k : Nat} (hk : k < 4) :
    etosLeads control k = true ↔
      control.getLsbD (4 + k) = true ∧ ∀ j < 4, k < j → control.getLsbD (4 + j) = false := by
  have nibble : ∀ (n : BitVec 4) (i : Fin 4), n >>> i.val = 1 ↔
      n.getLsbD i.val = true ∧ ∀ j : Fin 4, i < j → n.getLsbD j.val = false := by decide
  have bit : ∀ j < 4, control.getLsbD (4 + j) = (control.extractLsb' 4 4).getLsbD j := by
    intro j hj
    simp [hj]
  rw [etosLeads, beq_iff_eq, nibble _ ⟨k, hk⟩, bit k hk]
  refine and_congr_right fun _ => ⟨fun h j hj hkj => ?_, fun h j hkj => ?_⟩
  · rw [bit j hj]
    exact h ⟨j, hj⟩ hkj
  · rw [← bit j j.isLt]
    exact h j j.isLt hkj

/-- The built-in codes are those with `control[7:4]` zero. -/
theorem etosOf_lt_iff (control : BitVec 16) :
    (etosOf control).toNat < 16 ↔ ∀ j < 4, control.getLsbD (4 + j) = false := by
  have byte : ∀ e : BitVec 8, e.toNat < 16 ↔ ∀ j : Fin 4, e.getLsbD (4 + j.val) = false := by decide
  rw [byte, Fin.forall_iff]
  refine forall₂_congr fun j hj => ?_
  rw [etosOf, BitVec.getLsbD_extractLsb', zero_add, decide_eq_true (by omega), Bool.true_and]

/-- A request with `control[7:4]` not zero is an application request. -/
theorem decodeEtos_of_app {u : IdFields} (h : 16 ≤ (etosOf u.control).toNat) (dlc : BitVec 4)
    (data : Message) : decodeEtos u dlc data =
      if u.control.getLsbD 7 then .etosApp1 (frameOps u dlc data)
      else if u.control.getLsbD 6 then .etosApp2 (frameOps u dlc data)
      else if u.control.getLsbD 5 then .etosApp3 (frameOps u dlc data)
      else .etosApp4 (frameOps u dlc data) := by
  have hne : ∀ e : BitVec 8, e.toNat < 16 → etosOf u.control ≠ e := by
    rintro e he rfl
    omega
  simp [decodeEtos, hne]

/-- The application row that fixes `control[7:4]` down to bit `k`, its lowest fixed bit. -/
def appInstr : Nat → FrameOps → Instr
  | 3 => .etosApp1
  | 2 => .etosApp2
  | 1 => .etosApp3
  | _ => .etosApp4

section
variable {k : Nat} (hk : k < 4)
include hk

theorem wf_appInstr (q : FrameOps) :
    (appInstr k q).wf = (payloadOk q.dlc q.data && etosLeads q.control k) := by
  interval_cases k <;> rfl

theorem encode_appInstr (q : FrameOps) : encode (appInstr k q) = encodeFrame 0 0 q := by
  interval_cases k <;> rfl

theorem sixteen_le_etosOf_of_leads {control : BitVec 16} (h : etosLeads control k = true) :
    16 ≤ (etosOf control).toNat := by
  by_contra hlt
  have hzero := (etosOf_lt_iff control).1 (by omega) k hk
  rw [((etosLeads_iff control hk).1 h).1] at hzero
  cases hzero

/-- The lead of an application request decides its row. -/
theorem decodeEtos_of_etosLeads {u : IdFields} (h : etosLeads u.control k = true) (dlc : BitVec 4)
    (data : Message) : decodeEtos u dlc data = appInstr k (frameOps u dlc data) := by
  obtain ⟨hbit, habove⟩ := (etosLeads_iff u.control hk).1 h
  rw [decodeEtos_of_app (sixteen_le_etosOf_of_leads hk h)]
  interval_cases k
  · rw [habove 3 (by decide) (by decide), habove 2 (by decide) (by decide), habove 1 (by decide) (by decide)]
    rfl
  · rw [habove 3 (by decide) (by decide), habove 2 (by decide) (by decide), hbit]
    rfl
  · rw [habove 3 (by decide) (by decide), hbit]
    rfl
  · rw [hbit]
    rfl

end

/-! ### Decoding an encoding -/

theorem decode_encodeFrame (tos : BitVec 2) (ack : BitVec 1) (q : FrameOps) :
    decode (encodeFrame tos ack q) =
      if ack = 0 then .ok (decodeRequest ⟨q.control, tos, q.ms, q.node, ack⟩ q.dlc q.data)
      else .ok (decodeAck ⟨q.control, tos, q.ms, q.node, ack⟩ q.dlc q.data) := by
  simp [encodeFrame, decode, decodeFrame, mbnetFrame]

theorem decode_encodeEtos (etos : BitVec 8) (q : EtosOps) :
    decode (encodeEtos etos q) = .ok (decodeEtos
      ⟨(q.controlHigh ++ etos).cast (by rfl), 0, q.ms, q.node, 0⟩ q.dlc q.data) := by
  simp [encodeEtos, decode, decodeFrame, decodeRequest, mbnetFrame]

theorem decode_encode_appInstr {k : Nat} (hk : k < 4) {q : FrameOps} (h : (appInstr k q).WellFormed) :
    decode (encode (appInstr k q)) = .ok (appInstr k q) := by
  rw [Instr.WellFormed, wf_appInstr hk, Bool.and_eq_true] at h
  rw [encode_appInstr hk, decode_encodeFrame, if_pos rfl, decodeRequest, if_pos rfl,
    decodeEtos_of_etosLeads (u := ⟨q.control, 0, q.ms, q.node, 0⟩) hk h.2]
  rfl

/-- Settles O3: a command shows its opcode and its fields, a frame its `ack`, its `tos` and its ETOS; the
lead of an application request decides among the application rows. -/
theorem decodeEncodeRoundTrip : Obligations.DecodeEncodeRoundTrip := by
  intro i hi
  cases i
  case init | nodeidSet | nodeidGet | sendReq | sendReqAgain | waitAckNb | waitAck | sendAck |
      slaveInfoGet | handler | reservedA | reservedB | reservedC | reservedD | reservedE | reservedF =>
    simp [encode, encodeCommand, decode, decodeCommand]
  case etosApp1 => exact decode_encode_appInstr (k := 3) (by decide) hi
  case etosApp2 => exact decode_encode_appInstr (k := 2) (by decide) hi
  case etosApp3 => exact decode_encode_appInstr (k := 1) (by decide) hi
  case etosApp4 => exact decode_encode_appInstr (k := 0) (by decide) hi
  case ramRead | ramWrite | ping | ackOk | ackRead | ackRetry | ackError =>
    simp [encode, decode_encodeFrame, decodeRequest, decodeAck, frameOps]
  all_goals simp [encode, decode_encodeEtos, decodeEtos, etosOps]

end Sys2Proof.Machine

namespace Sys2Proof.Machine

/-! ## Decoding a frame (30_encoding.md R71, R72, R78; 00_scope.md R14) -/

/-- The request row of a built-in ETOS code (30_encoding.md R76). -/
def etosInstr : Nat → EtosOps → Instr
  | 0x0 => .etosLock
  | 0x1 => .etosUnlock
  | 0x2 => .etosReserved02
  | 0x3 => .etosReserved03
  | 0x4 => .etosInitHook
  | 0x5 => .etosUnimplemented05
  | 0x6 => .etosNotifyEvent
  | 0x7 => .etosNotifySysex
  | 0x8 => .etosDinToggle
  | 0x9 => .etosEncChange
  | 0xa => .etosAinChange
  | 0xb => .etosReserved0B
  | 0xc => .etosReserved0C
  | 0xd => .etosReserved0D
  | 0xe => .etosReserved0E
  | _ => .etosClone

section
variable {n : Nat} (hn : n < 16)
include hn

theorem encode_etosInstr (q : EtosOps) : encode (etosInstr n q) = encodeEtos (BitVec.ofNat 8 n) q := by
  interval_cases n <;> rfl

theorem wf_etosInstr (q : EtosOps) : (etosInstr n q).wf = payloadOk q.dlc q.data := by
  interval_cases n <;> rfl

theorem decodeEtos_of_etosOf {u : IdFields} (h : etosOf u.control = BitVec.ofNat 8 n) (dlc : BitVec 4)
    (data : Message) : decodeEtos u dlc data = etosInstr n (etosOps u dlc data) := by
  interval_cases n <;> simp [decodeEtos, h, etosInstr]

end

/-- A SPECIAL request has a built-in code, or the lead of an application row (30_encoding.md R78). -/
theorem etosOf_or_etosLeads (control : BitVec 16) :
    (∃ n < 16, etosOf control = BitVec.ofNat 8 n) ∨ ∃ k < 4, etosLeads control k = true := by
  have lead : ∀ n : BitVec 4, n = 0 ∨ ∃ k < 4, n >>> k = 1 := by decide
  obtain hzero | ⟨k, hk, hlead⟩ := lead (control.extractLsb' 4 4)
  · refine .inl ⟨_, (etosOf_lt_iff control).2 fun j hj => ?_, by simp⟩
    simpa [hj] using congrArg (BitVec.getLsbD · j) hzero
  · exact .inr ⟨k, hk, beq_iff_eq.2 hlead⟩

section
variable (u : IdFields) (dlc : BitVec 4) (data : Message)

/-- A SPECIAL request keeps its whole identifier. -/
theorem encode_decodeEtos : encode (decodeEtos u dlc data) = encodeFrame 0 0 (frameOps u dlc data) := by
  obtain ⟨n, hn, he⟩ | ⟨k, hk, hlead⟩ := etosOf_or_etosLeads u.control
  · rw [decodeEtos_of_etosOf hn he, encode_etosInstr hn, ← he, encodeEtos, etosOps, control_eq_append]
    rfl
  · rw [decodeEtos_of_etosLeads hk hlead, encode_appInstr hk]

/-- Only the payload of a SPECIAL request can be ill-formed. -/
theorem wf_decodeEtos : (decodeEtos u dlc data).wf = payloadOk dlc data := by
  obtain ⟨n, hn, he⟩ | ⟨k, hk, hlead⟩ := etosOf_or_etosLeads u.control
  · rw [decodeEtos_of_etosOf hn he, wf_etosInstr hn, etosOps]
  · rw [decodeEtos_of_etosLeads hk hlead, wf_appInstr hk, frameOps, hlead, Bool.and_true]

theorem tos_cases (tos : BitVec 2) : tos = 0 ∨ tos = 1 ∨ tos = 2 ∨ tos = 3 := by
  revert tos
  decide

theorem encode_decodeRequest :
    encode (decodeRequest u dlc data) = encodeFrame u.tos 0 (frameOps u dlc data) := by
  obtain h | h | h | h := tos_cases u.tos
  · rw [decodeRequest, if_pos h, encode_decodeEtos, h]
  all_goals simp [decodeRequest, h, encode]

theorem wf_decodeRequest : (decodeRequest u dlc data).wf = payloadOk dlc data := by
  obtain h | h | h | h := tos_cases u.tos
  · rw [decodeRequest, if_pos h, wf_decodeEtos]
  all_goals simp [decodeRequest, h, Instr.wf, frameOps]

theorem encode_decodeAck : encode (decodeAck u dlc data) = encodeFrame u.tos 1 (frameOps u dlc data) := by
  obtain h | h | h | h := tos_cases u.tos <;> simp [decodeAck, h, encode]

theorem wf_decodeAck : (decodeAck u dlc data).wf = payloadOk dlc data := by
  obtain h | h | h | h := tos_cases u.tos <;> simp [decodeAck, h, Instr.wf, frameOps]

end

/-- What a frame decodes to (30_encoding.md R72, R73). -/
theorem decode_frame_eq_ok {f : Frame} {i : Instr} (h : decode (.frame f) = .ok i) :
    f.ide = true ∧ f.rtr = false ∧
      (((unpack f.id).ack = 0 ∧ i = decodeRequest (unpack f.id) f.dlc f.data) ∨
        ((unpack f.id).ack = 1 ∧ i = decodeAck (unpack f.id) f.dlc f.data)) := by
  have one : ∀ a : BitVec 1, a ≠ 0 → a = 1 := by decide
  simp only [decode, decodeFrame] at h
  split_ifs at h with hide hrtr hack <;> cases h
  · exact ⟨by simpa using hide, by simpa using hrtr, .inl ⟨hack, rfl⟩⟩
  · exact ⟨by simpa using hide, by simpa using hrtr, .inr ⟨one _ hack, rfl⟩⟩

theorem exists_decode_frame {f : Frame} (hide : f.ide = true) (hrtr : f.rtr = false) :
    ∃ i, decode (.frame f) = .ok i := by
  simp only [decode, decodeFrame, hide, hrtr]
  by_cases hack : (unpack f.id).ack = 0
  · exact ⟨_, if_pos hack⟩
  · exact ⟨_, if_neg hack⟩

/-- The fields of its identifier are all that a frame's row needs. -/
theorem encodeFrame_frameOps {f : Frame} (hide : f.ide = true) (hrtr : f.rtr = false) :
    encodeFrame (unpack f.id).tos (unpack f.id).ack (frameOps (unpack f.id) f.dlc f.data) = .frame f := by
  have hid : pack ⟨(unpack f.id).control, (unpack f.id).tos, (unpack f.id).ms, (unpack f.id).node,
      (unpack f.id).ack⟩ = f.id := pack_unpack f.id
  cases f
  simp_all [encodeFrame, frameOps, mbnetFrame]

theorem encode_of_decode_frame {f : Frame} {i : Instr} (h : decode (.frame f) = .ok i) :
    encode i = .frame f := by
  obtain ⟨hide, hrtr, ⟨hack, rfl⟩ | ⟨hack, rfl⟩⟩ := decode_frame_eq_ok h
  · rw [encode_decodeRequest, ← hack, encodeFrame_frameOps hide hrtr]
  · rw [encode_decodeAck, ← hack, encodeFrame_frameOps hide hrtr]

theorem wf_of_decode_frame {f : Frame} {i : Instr} (h : decode (.frame f) = .ok i) :
    i.wf = payloadOk f.dlc f.data := by
  obtain ⟨-, -, ⟨-, rfl⟩ | ⟨-, rfl⟩⟩ := decode_frame_eq_ok h
  · exact wf_decodeRequest ..
  · exact wf_decodeAck ..

/-- Settles O4: by the row that the frame decodes to. -/
theorem frameDecodeLosesNothing : Obligations.FrameDecodeLosesNothing := by
  refine ⟨fun f => ⟨fun ⟨i, h⟩ => ?_, fun ⟨hide, hrtr⟩ => exists_decode_frame hide hrtr⟩,
    fun f i h => ⟨encode_of_decode_frame h, ?_⟩⟩
  · obtain ⟨hide, hrtr, -⟩ := decode_frame_eq_ok h
    exact ⟨hide, hrtr⟩
  · rw [Instr.WellFormed, wf_of_decode_frame h, payloadOk]

end Sys2Proof.Machine

namespace Sys2Proof.Machine

/-! ## The opcode table (30_encoding.md R78, R81) -/

/-! ### No two rows share a word -/

/-- The rows of spec/opcode_table.json. -/
def tableRows : List Row :=
  (List.range 16).map (fun op => Row.command (BitVec.ofNat 4 op)) ++
  (List.range 16).map (fun etos => Row.frame (BitVec.ofNat 29 (etos * 0x2000)) 0x001FF801) ++
  [Row.frame 0x00100000 0x00101801, Row.frame 0x00080000 0x00181801,
    Row.frame 0x00040000 0x001C1801, Row.frame 0x00020000 0x001E1801] ++
  [0x0800, 0x1000, 0x1800, 0x0001, 0x0801, 0x1001, 0x1801].map fun value => Row.frame value 0x00001801

/-- Membership is decided row by row; no row depends on the operands. -/
theorem row_mem_tableRows (i : Instr) : i.row ∈ tableRows := by
  cases i <;> exact of_decide_eq_true rfl

theorem tableRows_disjoint : ∀ a ∈ tableRows, ∀ b ∈ tableRows, a.disjoint b = true ∨ a = b := by
  decide

theorem Row.disjoint_eq_false {a b : Row} {w : Words} (ha : a.holds w = true) (hb : b.holds w = true) :
    a.disjoint b = false := by
  rcases w with ⟨cmd, data⟩ | f <;> rcases a with op | ⟨v, m⟩ <;> rcases b with op' | ⟨v', m'⟩ <;>
    simp only [Row.holds, beq_iff_eq, Bool.false_eq_true] at ha hb
  · have hop : op = op' := by
      have h := congrArg (BitVec.setWidth 4) (ha.symm.trans hb)
      simpa [BitVec.setWidth_setWidth_of_le] using h
    simp [Row.disjoint, hop]
  · have hfixed : v &&& (m &&& m') = v' &&& (m &&& m') := by
      rw [← ha, ← hb]
      ext k hk
      simp
      grind
    simp [Row.disjoint, hfixed]

theorem row_eq_of_holds {i j : Instr} {w : Words} (hi : i.row.holds w = true) (hj : j.row.holds w = true) :
    j.row = i.row := by
  have h := tableRows_disjoint _ (row_mem_tableRows j) _ (row_mem_tableRows i)
  rw [Row.disjoint_eq_false hj hi] at h
  exact h.resolve_left Bool.false_ne_true

/-! ### The row of what is decoded -/

theorem opcode_eq_ofNat (op : BitVec 4) : ∃ n < 16, op = BitVec.ofNat 4 n := by
  revert op
  decide

theorem row_decodeCommand (cmd data : BitVec 64) :
    (decodeCommand cmd data).row = .command (cmdOp cmd) := by
  obtain ⟨n, hn, h⟩ := opcode_eq_ofNat (cmdOp cmd)
  interval_cases n <;> simp [decodeCommand, h, Instr.row]

theorem row_holds_decodeCommand (cmd data : BitVec 64) :
    (decodeCommand cmd data).row.holds (.command cmd data) = true := by
  rw [row_decodeCommand, Row.holds, beq_iff_eq]
  have hmask := Nat.and_two_pow_sub_one_eq_mod cmd.toNat 4
  have hlt : cmd.toNat % 16 < 18446744073709551616 := by omega
  apply BitVec.eq_of_toNat_eq
  simpa [cmdOp, Nat.mod_eq_of_lt hlt] using hmask

theorem row_holds_etosInstr {n : Nat} (hn : n < 16) (q : EtosOps) :
    (etosInstr n q).row.holds (encode (etosInstr n q)) = true := by
  have hrow : (etosInstr n q).row = .frame (BitVec.ofNat 29 (n * 0x2000)) 0x001FF801 := by
    interval_cases n <;> rfl
  rw [encode_etosInstr hn, hrow, encodeEtos, mbnetFrame, Row.holds, Laws.etos_fixed]
  interval_cases n <;> decide

theorem row_holds_appInstr {k : Nat} (hk : k < 4) {q : FrameOps} (hlead : etosLeads q.control k = true) :
    (appInstr k q).row.holds (encode (appInstr k q)) = true := by
  have hrow : (appInstr k q).row = .frame (pack ⟨(1 : BitVec 16) <<< (k + 4), 0, 0, 0, 0⟩)
      (pack ⟨((0xF : BitVec 16) >>> k <<< k) <<< 4, 3, 0, 0, 1⟩) := by
    interval_cases k <;> rfl
  rw [encode_appInstr hk, hrow, encodeFrame, mbnetFrame, Row.holds,
    Laws.app_fixed _ _ _ _ _ (Laws.etosLeads_bits _ k hk hlead), beq_self_eq_true]

section
variable (u : IdFields) (dlc : BitVec 4) (data : Message)

theorem row_holds_decodeEtos :
    (decodeEtos u dlc data).row.holds (encode (decodeEtos u dlc data)) = true := by
  obtain ⟨n, hn, he⟩ | ⟨k, hk, hlead⟩ := etosOf_or_etosLeads u.control
  · rw [decodeEtos_of_etosOf hn he]
    exact row_holds_etosInstr hn _
  · rw [decodeEtos_of_etosLeads hk hlead]
    exact row_holds_appInstr hk hlead

theorem row_holds_decodeRequest :
    (decodeRequest u dlc data).row.holds (encode (decodeRequest u dlc data)) = true := by
  obtain h | h | h | h := tos_cases u.tos
  · rw [decodeRequest, if_pos h]
    exact row_holds_decodeEtos ..
  all_goals
    simp only [decodeRequest, h, BitVec.reduceEq, if_true, if_false]
    exact decide_eq_true (Laws.frame_fixed ..)

theorem row_holds_decodeAck :
    (decodeAck u dlc data).row.holds (encode (decodeAck u dlc data)) = true := by
  obtain h | h | h | h := tos_cases u.tos <;>
    simp only [decodeAck, h, BitVec.reduceEq, if_true, if_false] <;>
    exact decide_eq_true (Laws.frame_fixed ..)

end

theorem row_holds_of_decode {w : Words} {i : Instr} (h : decode w = .ok i) : i.row.holds w = true := by
  cases w with
  | command cmd data =>
    obtain rfl := Except.ok.inj h
    exact row_holds_decodeCommand cmd data
  | frame f =>
    rw [← encode_of_decode_frame h]
    obtain ⟨-, -, ⟨-, rfl⟩ | ⟨-, rfl⟩⟩ := decode_frame_eq_ok h
    · exact row_holds_decodeRequest ..
    · exact row_holds_decodeAck ..

/-- Settles O6: the decoded row holds, and no two rows of the table share a word. -/
theorem decoderFollowsTable : Obligations.DecoderFollowsTable := fun _ _ _ h =>
  ⟨row_holds_of_decode h, row_eq_of_holds (row_holds_of_decode h)⟩

end Sys2Proof.Machine

namespace Sys2Proof.Machine

/-! ## The bits of a command (30_encoding.md R79 to R81, R84) -/

/-- A field lies inside a mask when masking leaves it as it is. -/
theorem extractLsb'_eq_of_mask {mask cmd cmd' : BitVec 64} {start len : Nat}
    (hm : mask.extractLsb' start len = BitVec.allOnes len) (h : cmd &&& mask = cmd' &&& mask) :
    cmd.extractLsb' start len = cmd'.extractLsb' start len := by
  have hfield := congrArg (BitVec.extractLsb' start len) h
  rwa [BitVec.extractLsb'_and, BitVec.extractLsb'_and, hm, BitVec.and_allOnes, BitVec.and_allOnes] at hfield

/-- The opcode decides which fields of CMD and DATA the decoder reads. -/
theorem decodeCommand_congr {cmd cmd' data data' : BitVec 64} (hop : cmdOp cmd = cmdOp cmd')
    (hid : cmdOp cmd = 1 → cmdId cmd = cmdId cmd') (hnode : cmdNode cmd = cmdNode cmd')
    (hdlc : cmdDlc cmd = cmdDlc cmd') (htos : cmdTos cmd = cmdTos cmd')
    (hcontrol : cmdControl cmd = cmdControl cmd')
    (hdata : cmdOp cmd = 3 ∨ cmdOp cmd = 7 → data = data') :
    decodeCommand cmd data = decodeCommand cmd' data' := by
  unfold decodeCommand
  rw [← hop, ← hnode, ← hdlc, ← htos, ← hcontrol]
  grind

/-- All fields but `CMD[15:8]` as a whole lie inside this mask; that one only NODEID_SET reads. -/
theorem decodeCommand_eq_of_mask {cmd cmd' : BitVec 64}
    (h : cmd &&& 0x0000FFFF00037FFF = cmd' &&& 0x0000FFFF00037FFF)
    (hid : cmdOp cmd = 1 → cmdId cmd = cmdId cmd') (data : BitVec 64) :
    decodeCommand cmd data = decodeCommand cmd' data :=
  decodeCommand_congr (extractLsb'_eq_of_mask (by decide) h) hid (extractLsb'_eq_of_mask (by decide) h)
    (extractLsb'_eq_of_mask (by decide) h) (extractLsb'_eq_of_mask (by decide) h)
    (extractLsb'_eq_of_mask (by decide) h) fun _ => rfl

theorem wf_decodeCommand (cmd data : BitVec 64) : (decodeCommand cmd data).WellFormed := by
  obtain ⟨n, hn, h⟩ := opcode_eq_ofNat (cmdOp cmd)
  interval_cases n <;> simp [decodeCommand, h, Instr.WellFormed, Instr.wf]

theorem decodeCommand_of_sendReq {cmd : BitVec 64} (h : cmdOp cmd = 3) (data : BitVec 64) :
    decodeCommand cmd data =
      .sendReq (cmdNode cmd) (cmdTos cmd) (cmdControl cmd) (cmdDlc cmd) (Message.ofData data) := by
  simp [decodeCommand, h]

theorem decodeCommand_of_sendAck {cmd : BitVec 64} (h : cmdOp cmd = 7) (data : BitVec 64) :
    decodeCommand cmd data =
      .sendAck (cmdNode cmd) (cmdTos cmd) (cmdDlc cmd) (Message.ofData data) := by
  simp [decodeCommand, h]

/-! ### The bytes of DATA (30_encoding.md R80) -/

theorem messageBytes_inj {m m' : Message} (h : messageBytes m = messageBytes m') : m = m' := by
  cases m
  cases m'
  simpa [messageBytes] using h

theorem messageBytes_ofData (data : BitVec 64) {k : Nat} (hk : k < 8) :
    (messageBytes (Message.ofData data))[k]? = some (data.extractLsb' (8 * k) 8) := by
  interval_cases k <;> rfl

/-- A message is the one of a data word when its bytes are the bytes of the word. -/
theorem eq_ofData_iff (msg : Message) (data : BitVec 64) : msg = Message.ofData data ↔
    ∀ k < 8, (messageBytes msg)[k]? = some (data.extractLsb' (8 * k) 8) := by
  refine ⟨fun h k hk => h ▸ messageBytes_ofData data hk, fun h => ?_⟩
  refine messageBytes_inj (List.ext_getElem? fun k => ?_)
  obtain hk | hk := lt_or_ge k 8
  · rw [h k hk, messageBytes_ofData data hk]
  · rw [List.getElem?_eq_none (by exact hk), List.getElem?_eq_none (by exact hk)]

/-! ### The statement -/

theorem decode_command_eq_ok_iff {cmd data : BitVec 64} {i : Instr} :
    decode (.command cmd data) = .ok i ↔ decodeCommand cmd data = i := by
  rw [decode, Except.ok.injEq]

theorem cmdOp_of_decodeCommand {cmd data : BitVec 64} {i : Instr} (h : decodeCommand cmd data = i)
    {op : BitVec 4} (hrow : i.row = .command op) : cmdOp cmd = op := by
  rw [← h, row_decodeCommand, Row.command.injEq] at hrow
  exact hrow

theorem decodeCommand_eq_sendReq_iff {cmd data : BitVec 64} {slave : BitVec 7} {tos : BitVec 2}
    {control : BitVec 16} {dlc : BitVec 4} {msg : Message} :
    decodeCommand cmd data = .sendReq slave tos control dlc msg ↔ cmdOp cmd = 3 ∧ slave = cmdNode cmd ∧
      tos = cmdTos cmd ∧ control = cmdControl cmd ∧ dlc = cmdDlc cmd ∧ msg = Message.ofData data := by
  constructor
  · intro h
    have hop := cmdOp_of_decodeCommand h rfl
    rw [decodeCommand_of_sendReq hop] at h
    cases h
    exact ⟨hop, rfl, rfl, rfl, rfl, rfl⟩
  · rintro ⟨hop, rfl, rfl, rfl, rfl, rfl⟩
    exact decodeCommand_of_sendReq hop data

theorem decodeCommand_eq_sendAck_iff {cmd data : BitVec 64} {master : BitVec 7} {tos : BitVec 2}
    {dlc : BitVec 4} {msg : Message} :
    decodeCommand cmd data = .sendAck master tos dlc msg ↔ cmdOp cmd = 7 ∧ master = cmdNode cmd ∧
      tos = cmdTos cmd ∧ dlc = cmdDlc cmd ∧ msg = Message.ofData data := by
  constructor
  · intro h
    have hop := cmdOp_of_decodeCommand h rfl
    rw [decodeCommand_of_sendAck hop] at h
    cases h
    exact ⟨hop, rfl, rfl, rfl, rfl⟩
  · rintro ⟨hop, rfl, rfl, rfl, rfl⟩
    exact decodeCommand_of_sendAck hop data

/-- Settles O5: the fields that the opcode's row reads lie inside the masks. -/
theorem commandBitsRead : Obligations.CommandBitsRead := by
  refine ⟨fun cmd data => ⟨_, rfl, wf_decodeCommand cmd data⟩, fun cmd cmd' data h => ?_,
    fun cmd cmd' data hop h => ?_, fun cmd data data' hreq hack => ?_, ?_, ?_⟩
  · have hsub := congrArg (· &&& (0x0000FFFF00037FFF : BitVec 64)) h
    simp only [BitVec.and_assoc] at hsub
    exact congrArg Except.ok
      (decodeCommand_eq_of_mask hsub (fun _ => extractLsb'_eq_of_mask (by decide) h) data)
  · exact congrArg Except.ok (decodeCommand_eq_of_mask h (fun hone => absurd hone hop) data)
  · exact congrArg Except.ok (decodeCommand_congr rfl (fun _ => rfl) rfl rfl rfl rfl
      fun hreads => (hreads.elim hreq hack).elim)
  · intro cmd data slave tos control dlc msg
    rw [decode_command_eq_ok_iff, decodeCommand_eq_sendReq_iff, eq_ofData_iff]
    rfl
  · intro cmd data master tos dlc msg
    rw [decode_command_eq_ok_iff, decodeCommand_eq_sendAck_iff, eq_ofData_iff]
    rfl

end Sys2Proof.Machine

namespace Sys2Proof.Machine

/-! ## Sample words, and the result word (30_encoding.md R82, R83; 95_test_vectors.md) -/

/-- Settles O7: each word by evaluation. -/
theorem sampleWordsDecode : Obligations.SampleWordsDecode := by
  unfold Obligations.SampleWordsDecode
  decide

/-- The fields of the result word stand next to each other. -/
theorem word_eq_append (r : Result) :
    r.word = (r.tos ++ r.id ++ r.dlc ++ r.status.code).setWidth 64 := by
  ext k hk
  simp [Result.word]
  grind

theorem toNat_append_eq_add {m n : Nat} (x : BitVec m) (y : BitVec n) :
    (x ++ y).toNat = x.toNat * 2 ^ n + y.toNat := by
  rw [BitVec.toNat_append, ← Nat.shiftLeft_add_eq_or_of_lt y.isLt, Nat.shiftLeft_eq]

theorem word_toNat (r : Result) : r.word.toNat =
    r.tos.toNat * 65536 + r.id.toNat * 256 + r.dlc.toNat * 16 + r.status.code.toNat := by
  rw [word_eq_append, BitVec.toNat_setWidth_of_le (by decide)]
  simp only [toNat_append_eq_add]
  omega

/-- Settles O9: the places of the fields, the codes by evaluation, and DATA's bytes. -/
theorem resultWordLayout : Obligations.ResultWordLayout :=
  ⟨word_toNat, by decide, toData_ofData, ofData_toData,
    fun m k => (eq_ofData_iff m m.toData).1 (ofData_toData m).symm k⟩

end Sys2Proof.Machine

namespace Sys2Proof.Machine

/-! ## The acknowledge rows at WAIT_ACK's poll (30_encoding.md R75; 42_master_request.md R152 to R154) -/

section
variable {s : State} {slave : BitVec 7} {q : FrameOps}

/-! ### What a poll answers to an acknowledge row -/

@[simp] theorem unpack_ackFrame (q : FrameOps) (tos : BitVec 2) :
    unpack (ackFrame q tos).id = ⟨q.control, tos, q.ms, q.node, 1⟩ :=
  unpack_pack _

theorem receiveAck_of_answer (hfrom : IsFrom slave q.control) {tos : BitVec 2} (htos : tos ≠ tosRetry)
    (s : State) : s.receiveAck slave (ackFrame q tos) =
      (Result.ofAck (receivedPayload q.dlc q.data) q.dlc tos, s) := by
  simp [State.receiveAck, fromSlave, hfrom, htos, ackFrame, mbnetFrame]

theorem receiveAck_of_retry (hfrom : IsFrom slave q.control) (s : State) :
    s.receiveAck slave (ackFrame q tosRetry) = (Result.ofStatus .retryRequested, s) := by
  simp [State.receiveAck, fromSlave, hfrom]

theorem receiveAck_of_other (hfrom : ¬ IsFrom slave q.control) (tos : BitVec 2) (s : State) :
    s.receiveAck slave (ackFrame q tos) =
      (Result.ofStatus .pending, s.logDiscard (ackFrame q tos)) := by
  simp [State.receiveAck, fromSlave, hfrom]

/-! ### How WAIT_ACK goes on -/

theorem stopAt_of_run {p : Point} (h : s.run = some p) : s.stopAt p = s := by
  rw [State.stopAt, ← h]

theorem takeAck_of_waitAck (hr : s.run = some (.waitAck slave)) (f : Frame) :
    s.takeAck f = .next (State.waitAckWith slave (s.receiveAck slave f)) := by
  simp [State.takeAck, hr]

theorem waitAckWith_of_success (s : State) {r : Result} (h : r.status = .success) :
    State.waitAckWith slave (r, s) = { s with budget := none }.returned r := by
  simp [State.waitAckWith, State.afterPoll, h, State.finish, State.returned]

theorem waitAckWith_of_resend {f : Frame} (h : s.resendFrame slave = .ok f) :
    State.waitAckWith slave (Result.ofStatus .retryRequested, s) = s.stopAt (.waitAckResend slave f) := by
  simp only [State.waitAckWith, afterPoll_retry h]

theorem waitAckWith_of_no_resend {e : Status} (h : s.resendFrame slave = .error e) :
    State.waitAckWith slave (Result.ofStatus .retryRequested, s) =
      { s with budget := none }.returned (statusResult e) := by
  simp [State.waitAckWith, State.afterPoll, Result.ofStatus, h, State.finish, State.returned,
    statusResult]

/-- A poll that hears nothing from the slave uses up one of the polls left. -/
theorem waitAckWith_of_pending {b : Nat} (hr : s.run = some (.waitAck slave)) (hb : s.budget = some b)
    (hpos : 1 < b) : State.waitAckWith slave (Result.ofStatus .pending, s) =
      { s with budget := some (b - 1) } := by
  have hleft : b - 1 ≠ 0 := by omega
  have hstop := stopAt_of_run (s := { s with budget := some (b - 1) }) hr
  simpa [State.waitAckWith, State.afterPoll, Result.ofStatus, hb, hleft] using hstop

theorem waitAckWith_of_last_pending (hb : s.budget = some 1) :
    State.waitAckWith slave (Result.ofStatus .pending, s) =
      { s with budget := none }.returned (statusResult .timeout) := by
  simp [State.waitAckWith, State.afterPoll, Result.ofStatus, hb, State.finish, State.returned,
    statusResult]

/-! ### The rows -/

variable (hr : s.run = some (.waitAck slave))
include hr

theorem takeAck_answer (hfrom : IsFrom slave q.control) {tos : BitVec 2} (htos : tos ≠ tosRetry) :
    s.takeAck (ackFrame q tos) = .next ({ s with budget := none }.returned
      ⟨.success, 0, q.dlc, tos, q.data.keep (min q.dlc.toNat 8)⟩) := by
  rw [takeAck_of_waitAck hr, receiveAck_of_answer hfrom htos, waitAckWith_of_success _ rfl]
  rfl

theorem takeAck_retry_resends (hfrom : IsFrom slave q.control) {f : Frame}
    (h : s.resendFrame slave = .ok f) :
    s.takeAck (ackFrame q tosRetry) = .next (s.stopAt (.waitAckResend slave f)) := by
  rw [takeAck_of_waitAck hr, receiveAck_of_retry hfrom, waitAckWith_of_resend h]

theorem takeAck_retry_ends (hfrom : IsFrom slave q.control) {e : Status}
    (h : s.resendFrame slave = .error e) : s.takeAck (ackFrame q tosRetry) =
      .next ({ s with budget := none }.returned (statusResult e)) := by
  rw [takeAck_of_waitAck hr, receiveAck_of_retry hfrom, waitAckWith_of_no_resend h]

/-- An acknowledge that is not from the slave is logged, and uses up a poll. -/
theorem takeAck_other (hfrom : ¬ IsFrom slave q.control) (tos : BitVec 2) {b : Nat}
    (hb : s.budget = some b) :
    (1 < b → s.takeAck (ackFrame q tos) = .next { s with
      budget := some (b - 1)
      record := s.record ++ [Observation.discardedAck (ackFrame q tos)] }) ∧
    (b = 1 → s.takeAck (ackFrame q tos) = .next ({ s with
      budget := none
      record := s.record ++ [Observation.discardedAck (ackFrame q tos)] }.returned
      (statusResult .timeout))) := by
  rw [takeAck_of_waitAck hr, receiveAck_of_other hfrom]
  refine ⟨fun hpos => ?_, ?_⟩
  · rw [waitAckWith_of_pending (s := s.logDiscard _) hr hb hpos]
    rfl
  · rintro rfl
    rw [waitAckWith_of_last_pending (s := s.logDiscard _) hb]
    rfl

end

/-- Settles O25: by the sender, the row and, after RETRY, the checks of the resend. -/
theorem ackAtWaitAck : Obligations.AckAtWaitAck := by
  intro s slave q hr
  refine ⟨fun hfrom => ?_, fun hfrom => ⟨?_, ?_, ?_, ?_⟩, fun hfrom b hb => ?_⟩
  · simp only [List.forall_mem_cons, List.not_mem_nil, false_imp_iff, implies_true, and_true]
    exact ⟨takeAck_answer hr hfrom (by decide), takeAck_answer hr hfrom (by decide),
      takeAck_answer hr hfrom (by decide)⟩
  · intro hc
    exact takeAck_retry_ends hr hfrom (by simp [State.resendFrame, hc])
  · intro hc hm
    have hslave : isMasterId s.nodeId = false := beq_eq_false_iff_ne.2 hm
    exact takeAck_retry_ends hr hfrom (by simp [State.resendFrame, hc, hslave])
  · intro hc hm hp
    exact takeAck_retry_ends hr hfrom (by simp [State.resendFrame, isMasterId, hc, hm, hp])
  · intro hc hm hv hs
    exact takeAck_retry_resends hr hfrom
      (resendFrame_pending (by simp [State.isMaster, isMasterId, hc, hm]) hv hs)
  · simp only [List.forall_mem_cons, List.not_mem_nil, false_imp_iff, implies_true, and_true]
    exact ⟨takeAck_other hr hfrom tosOk hb, takeAck_other hr hfrom tosRead hb,
      takeAck_other hr hfrom tosRetry hb, takeAck_other hr hfrom tosError hb⟩

end Sys2Proof.Machine

namespace Sys2Proof.Machine

/-! ## What the CORE transmits (30_encoding.md R72, R73; 10_state.md R25) -/

section
variable {s t : State} {o : Option Instr} {f : Frame} {c : BitVec 7}

/-- The frame is a request to `c` that the CORE may transmit (42_master_request.md R150). -/
def IsRequestTo (c : BitVec 7) (f : Frame) : Prop :=
  IsMbnet f ∧ (unpack f.id).node = c ∧ (unpack f.id).ack = 0

theorem isMbnet_buildFrame {dlc : BitVec 4} (h : dlc.toNat ≤ 8) (id : BitVec 29) (msg : Message) :
    IsMbnet (buildFrame id msg dlc) :=
  ⟨rfl, rfl, h, keep_zeroFrom ..⟩

theorem requestFrame_isRequestTo {dlc : BitVec 4} (h : dlc.toNat ≤ 8) (s : State) (slave : BitVec 7)
    (tos : BitVec 2) (control : BitVec 16) (msg : Message) :
    IsRequestTo slave (s.requestFrame slave tos control dlc msg) :=
  ⟨isMbnet_buildFrame h .., by simp [State.requestFrame, State.requestId],
    by simp [State.requestFrame, State.requestId]⟩

/-- A resend sends PENDING, whatever master ID the node has now (42_master_request.md R151). -/
theorem FrameInv.isMbnet_resend (hs : FrameInv s) (h : s.resendFrame c = .ok f) : IsMbnet f := by
  rcases resendFrame_cases s c with ⟨-, e⟩ | ⟨-, -, e⟩ | ⟨-, -, -, e⟩ | ⟨-, -, -, -, e⟩ <;> rw [e] at h <;>
    cases h
  exact isMbnet_buildFrame hs.pendingDlc ..

/-! ### Where the frames come from -/

/-- A frame that a step from `s` may take to `Transmit`: one that the step builds, the resend of PENDING, or
the one that the running command holds with. -/
def MaySend (s : State) (f : Frame) : Prop :=
  IsMbnet f ∨ (∃ c, s.resendFrame c = .ok f) ∨ ∃ p, s.run = some p ∧ p.frame? = some f

theorem FrameInv.isMbnet (hs : FrameInv s) (h : MaySend s f) : IsMbnet f := by
  obtain h | ⟨c, h⟩ | ⟨p, hr, hp⟩ := h
  · exact h
  · exact hs.isMbnet_resend h
  · exact hs.held p f hr hp

/-- What a step adds to the transmit record. -/
theorem Effect.txRecord (h : Effect s o t) :
    t.txRecord = s.txRecord ∨ ∃ f, MaySend s f ∧ t.txRecord = s.txRecord ++ [f] := by
  cases h
  case requests hd hf _ =>
    exact .inr ⟨_, .inl (hf ▸ (requestFrame_isRequestTo hd ..).1),
      (finish_txRecord ..).trans (txRecord_of_transmit rfl)⟩
  case again hf _ =>
    exact .inr ⟨_, hf.imp_right .inl, (finish_txRecord ..).trans (txRecord_of_transmit rfl)⟩
  case sendReqSent hr _ =>
    exact .inr ⟨_, .inr (.inr ⟨_, hr, rfl⟩), (finish_txRecord ..).trans (txRecord_of_transmit rfl)⟩
  case sentPlain hr _ =>
    refine .inr ⟨_, .inr (.inr ?_), (finish_txRecord ..).trans (txRecord_of_transmit rfl)⟩
    exact hr.elim (⟨_, ·, rfl⟩) (⟨_, ·, rfl⟩)
  case scans hf _ =>
    exact .inr ⟨_, .inl (hf ▸ (requestFrame_isRequestTo (by decide) ..).1), txRecord_of_transmit rfl⟩
  case waitSent hr _ | probeSent hr _ | probeResent hr _ | replySent hr _ =>
    exact .inr ⟨_, .inr (.inr ⟨_, hr, rfl⟩), txRecord_of_transmit rfl⟩
  case polls hl | waitEnds hl _ => exact .inl ((finish_txRecord ..).trans (txRecord_of_logged hl))
  case waitPolls hl _ | waitResends hl _ | found hl _ | full hl _ | failed hl | probePolls hl _ _ |
      probeResends hl _ => exact .inl (txRecord_of_logged hl)
  case ends | resets | renames | drainsEnd | drained => exact .inl (finish_txRecord ..)
  case calls => exact .inl (enterCall_txRecord ..)
  all_goals exact .inl rfl

/-- The frame that a command holds with after a step. -/
theorem Effect.held {p : Point} (h : Effect s o t) (hr : t.run = some p) (hp : p.frame? = some f) :
    MaySend s f := by
  cases h
  case holds | probePolls | returnsNop => exact .inr (.inr ⟨p, hr, hp⟩)
  case requestHolds hd _ hf =>
    cases hr
    cases hp
    exact .inl (hf ▸ (requestFrame_isRequestTo hd ..).1)
  case scanHolds hf _ =>
    cases hr
    cases hp
    exact .inl (hf ▸ (requestFrame_isRequestTo (by decide) ..).1)
  case againHolds hf _ | waitResends hf | probeResends hf =>
    cases hr
    cases hp
    exact .inr (.inl ⟨_, hf⟩)
  case ackHolds hf _ =>
    cases hr
    cases hp
    exact .inl hf
  case replies hb | locks hb | unlocks hb | returns hb =>
    cases hr
    obtain rfl | ⟨g, rfl, hg⟩ := hb <;> cases hp
    exact .inl hg
  all_goals cases hr <;> cases hp

/-- The command at this point holds with a request that goes into PENDING: SEND_REQ, or the probe with its
ping (42_master_request.md R150; 43_discovery.md R193). -/
def HoldsRequest (p : Point) (c : BitVec 7) (f : Frame) : Prop :=
  p = .sendReq c f ∨ ∃ n, p = .probeSend c n f

/-- Such a request was built by the step, or is held from before. -/
theorem Effect.heldRequest {p : Point} (h : Effect s o t) (hr : t.run = some p) (hp : HoldsRequest p c f) :
    IsRequestTo c f ∨ s.run = some p := by
  cases h
  case holds | probePolls | returnsNop => exact .inr hr
  case requestHolds hd _ hf =>
    cases hr
    obtain h | ⟨n, h⟩ := hp <;> cases h
    exact .inl (hf ▸ requestFrame_isRequestTo hd ..)
  case scanHolds hf _ =>
    cases hr
    obtain h | ⟨n, h⟩ := hp <;> cases h
    exact .inl (hf ▸ requestFrame_isRequestTo (by decide) ..)
  case replies hb | locks hb | unlocks hb | returns hb =>
    cases hr
    obtain rfl | ⟨g, rfl, -⟩ := hb <;> obtain h | ⟨n, h⟩ := hp <;> cases h
  all_goals cases hr <;> obtain h | ⟨n, h⟩ := hp <;> cases h

/-! ### PENDING -/

/-- PENDING has the payload of an MBNet frame, and when valid names its slave. -/
def PendingOk (p : Pending) : Prop :=
  p.dlc.toNat ≤ 8 ∧ p.msg.zeroFrom p.dlc.toNat = true ∧
    (p.valid = true → (unpack p.fid).node = p.slaveId ∧ (unpack p.fid).ack = 0)

theorem pendingOk_none : PendingOk Pending.none :=
  ⟨Nat.zero_le 8, zeroFrom_zero_message 0, nofun⟩

theorem IsRequestTo.pendingOk (h : IsRequestTo c f) : PendingOk (Pending.ofFrame c f) := by
  obtain ⟨⟨-, -, hdlc, hdata⟩, hid⟩ := h
  exact ⟨hdlc, hdata, fun _ => hid⟩

theorem FrameInv.pendingOk (hs : FrameInv s) : PendingOk s.pending :=
  ⟨hs.pendingDlc, hs.pendingData, hs.pendingId⟩

theorem FrameInv.isRequestTo {p : Point} (hs : FrameInv s) (hr : s.run = some p)
    (hp : HoldsRequest p c f) : IsRequestTo c f := by
  obtain rfl | ⟨n, rfl⟩ := hp
  · exact ⟨hs.held _ f hr rfl, hs.toSend c f hr⟩
  · exact ⟨hs.held _ f hr rfl, hs.toProbe c n f hr⟩

theorem FrameInv.pendingOk_effect (hs : FrameInv s) (h : Effect s o t) : PendingOk t.pending := by
  cases h
  case resets => exact pendingOk_none
  case requests hd hf _ => exact (hf ▸ requestFrame_isRequestTo hd ..).pendingOk
  case scans hf _ => exact (hf ▸ requestFrame_isRequestTo (by decide) ..).pendingOk
  case sendReqSent hr _ => exact (hs.isRequestTo hr (.inl rfl)).pendingOk
  case probeSent hr _ => exact (hs.isRequestTo hr (.inr ⟨_, rfl⟩)).pendingOk
  all_goals exact hs.pendingOk

/-! ### The statement -/

/-- Every effect hands over, holds and keeps in PENDING only such frames. -/
theorem FrameInv.effect (hs : FrameInv s) (h : Effect s o t) : FrameInv t := by
  obtain ⟨hdlc, hdata, hid⟩ := hs.pendingOk_effect h
  have hrequest {p : Point} {c : BitVec 7} {f : Frame} (hr : t.run = some p) (hp : HoldsRequest p c f) :
      IsRequestTo c f := (h.heldRequest hr hp).elim id (hs.isRequestTo · hp)
  refine ⟨?_, fun p f hr hp => hs.isMbnet (h.held hr hp), hdlc, hdata, hid,
    fun slave f hr => (hrequest hr (.inl rfl)).2, fun c n f hr => (hrequest hr (.inr ⟨n, rfl⟩)).2⟩
  obtain e | ⟨f, hf, e⟩ := h.txRecord <;> rw [e]
  · exact hs.handed
  · exact List.forall_mem_append.2 ⟨hs.handed, List.forall_mem_singleton.2 (hs.isMbnet hf)⟩

end

/-- Settles O48: each clause over every effect. -/
theorem frameInvKept : Obligations.FrameInvKept := fun _ _ =>
  next_keeps (fun _ _ _ _ _ _ _ ⟨hh, hp, hd, hm, hi, hs, hc⟩ => ⟨hh, hp, hd, hm, hi, hs, hc⟩)
    fun _ _ _ => FrameInv.effect

end Sys2Proof.Machine

namespace Sys2Proof.Machine

/-! ## The frame codec (40_codec.md R101, R102, R107, R111) -/

/-- Settles O1: PACK puts the fields side by side, so either way gives back what it was given. -/
theorem unpackInvertsPack : Obligations.UnpackInvertsPack :=
  ⟨fun _ => rfl, unpack_pack, pack_unpack, rfl⟩

/-- The fields of a FrameID at their places: PACK truncates nothing (30_encoding.md R70). -/
theorem pack_toNat (u : IdFields) : (pack u).toNat =
    u.control.toNat * 8192 + u.tos.toNat * 2048 + u.ms.toNat * 256 + u.node.toNat * 2 + u.ack.toNat := by
  rw [pack_eq_append, BitVec.toNat_cast]
  simp only [toNat_append_eq_add]
  omega

/-- Settles O2: the formula is PACK's definition, the corner cases are evaluated. -/
theorem packPlacesFields : Obligations.PackPlacesFields :=
  ⟨fun _ => rfl, pack_toNat, rfl, rfl, rfl⟩

/-- The kept bytes of a message, and zeros for the others. -/
theorem messageBytes_keep (n : Nat) (m : Message) :
    messageBytes (m.keep n) = (messageBytes m).take n ++ List.replicate (8 - n) 0 := by
  obtain hn | hn := lt_or_ge n 8
  · interval_cases n <;> rfl
  · rw [keep_all hn, List.take_of_length_le (by exact hn), Nat.sub_eq_zero_of_le hn,
      List.replicate_zero, List.append_nil]

/-- Settles O8: both keep the bytes that travel. -/
theorem payloadBytes : Obligations.PayloadBytes :=
  ⟨fun _ msg dlc _ => ⟨rfl, rfl, rfl, rfl, messageBytes_keep dlc.toNat msg⟩, messageBytes_keep,
    fun dlc m => messageBytes_keep (dataLength dlc) m⟩

end Sys2Proof.Machine

namespace Sys2Proof.Machine

/-! ## The filters and the receive queues (40_codec.md R104 to R106) -/

section
variable {s t : State} {f : Frame} {rest : List BusAction}

/-! ### The filters -/

theorem unpack_ack_eq_one_iff (id : BitVec 29) : (unpack id).ack = 1 ↔ id.getLsbD 0 = true := by
  have key : ∀ a : BitVec 1, a = 1 ↔ ¬ a = 0 := by decide
  rw [key, unpack_ack_eq_zero_iff, Bool.not_eq_false]

/-- A configured node routes the extended data frames addressed to it by their `ack` bit. -/
theorem filterMatch_of_addressed (hc : s.configured = true) (hide : f.ide = true) (hrtr : f.rtr = false)
    (hn : (unpack f.id).node = s.nodeId) :
    s.filterMatch f = if (unpack f.id).ack = 0 then .toRq else .toAq := by
  simp [State.filterMatch, hc, hide, hrtr, hn]

theorem filterMatch_of_unconfigured (h : s.configured = false) (f : Frame) : s.filterMatch f = .drop :=
  if_pos h

theorem filterMatch_eq_toRq_iff (s : State) (f : Frame) : s.filterMatch f = .toRq ↔
    s.configured = true ∧ f.ide = true ∧ f.rtr = false ∧ f.id.extractLsb' 1 7 = s.nodeId ∧
      f.id.getLsbD 0 = false := by
  rw [← unpack_ack_eq_zero_iff]
  refine ⟨filterMatch_eq_toRq, fun ⟨hc, hide, hrtr, hn, ha⟩ => ?_⟩
  rw [filterMatch_of_addressed hc hide hrtr hn, if_pos ha]

theorem filterMatch_eq_toAq_iff (s : State) (f : Frame) : s.filterMatch f = .toAq ↔
    s.configured = true ∧ f.ide = true ∧ f.rtr = false ∧ f.id.extractLsb' 1 7 = s.nodeId ∧
      f.id.getLsbD 0 = true := by
  rw [← unpack_ack_eq_one_iff]
  refine ⟨filterMatch_eq_toAq, fun ⟨hc, hide, hrtr, hn, ha⟩ => ?_⟩
  rw [filterMatch_of_addressed hc hide hrtr hn, if_neg (by rw [ha]; decide)]

/-- NODEID_SET of a 7-bit ID configures the node with it (41_node_identity.md R131). -/
theorem exec_nodeidSet_of_lt {id : BitVec 8} (hr : s.run = none) (hid : id.toNat < 128) :
    exec (.nodeidSet id) s = .next
      ({ s with nodeId := id.setWidth 7, configured := true }.finish (Result.ofStatus .success)) := by
  rw [exec, execNodeidSet, issue_of_idle hr, if_neg (Nat.not_le.2 hid)]

/-! ### A delivery (40_codec.md R105, R106) -/

theorem enqueue_of_room {p : Params} {q : List Frame} (h : q.length < p.rxqDepth) (f : Frame) :
    enqueue p q f = q ++ [f] :=
  if_pos h

theorem enqueue_of_dropNew {p : Params} {q : List Frame} (h : p.rxqDepth ≤ q.length)
    (ho : p.rxqOverrun = .dropNew) (f : Frame) : enqueue p q f = q := by
  rw [enqueue, if_neg (Nat.not_lt.2 h), ho]

theorem enqueue_of_dropOldest {p : Params} {q : List Frame} (h : p.rxqDepth ≤ q.length)
    (ho : p.rxqOverrun = .dropOldest) (f : Frame) : enqueue p q f = q.drop 1 ++ [f] := by
  rw [enqueue, if_neg (Nat.not_lt.2 h), ho, List.drop_one]

theorem deliver_of_toRq (h : s.filterMatch f = .toRq) :
    s.deliver f = { s with rq := enqueue s.params s.rq (receivedFrame f) } := by
  rw [State.deliver, h]

theorem deliver_of_toAq (h : s.filterMatch f = .toAq) :
    s.deliver f = { s with aq := enqueue s.params s.aq (receivedFrame f) } := by
  rw [State.deliver, h]

theorem deliver_of_drop (h : s.filterMatch f = .drop) : s.deliver f = s := by
  rw [State.deliver, h]

theorem step_of_deliver_toRq (hb : s.bus = .deliver f :: rest) (hf : s.filterMatch f = .toRq) :
    step s = .next { s with bus := rest, rq := enqueue s.params s.rq (receivedFrame f) } := by
  rw [step_of_deliver hb, deliver_of_toRq (by exact hf)]

theorem step_of_deliver_toAq (hb : s.bus = .deliver f :: rest) (hf : s.filterMatch f = .toAq) :
    step s = .next { s with bus := rest, aq := enqueue s.params s.aq (receivedFrame f) } := by
  rw [step_of_deliver hb, deliver_of_toAq (by exact hf)]

theorem step_of_deliver_drop (hb : s.bus = .deliver f :: rest) (hf : s.filterMatch f = .drop) :
    step s = .next { s with bus := rest } := by
  rw [step_of_deliver hb, deliver_of_drop (by exact hf)]

/-! ### The queues over every step -/

/-- A frame that a filter let in is an accepted one once its untravelled bytes are zero
(00_scope.md R14). -/
theorem isAccepted_receivedFrame {ack : BitVec 1} (hide : f.ide = true) (hrtr : f.rtr = false)
    (ha : (unpack f.id).ack = ack) : IsAccepted ack (receivedFrame f) :=
  ⟨hide, hrtr, ha, receivedPayload_ok ..⟩

/-- Enqueuing an accepted frame keeps a queue bounded and its frames accepted. -/
theorem enqueue_keeps {p : Params} {ack : BitVec 1} {q : List Frame} (hp : 1 ≤ p.rxqDepth)
    (hq : q.length ≤ p.rxqDepth) (hacc : ∀ g ∈ q, IsAccepted ack g) (hf : IsAccepted ack f) :
    (enqueue p q f).length ≤ p.rxqDepth ∧ ∀ g ∈ enqueue p q f, IsAccepted ack g :=
  ⟨enqueue_length_le hp hq f, fun g hg => (mem_enqueue hg).elim (hacc g) (· ▸ hf)⟩

theorem QueueInv.deliver (hs : QueueInv s) (f : Frame) : QueueInv (s.deliver f) := by
  obtain ⟨hp, hrq, haq, hrqAcc, haqAcc⟩ := hs
  cases hf : s.filterMatch f with
  | toRq =>
    obtain ⟨-, hide, hrtr, -, ha⟩ := filterMatch_eq_toRq hf
    obtain ⟨hlen, hacc⟩ := enqueue_keeps hp hrq hrqAcc (isAccepted_receivedFrame hide hrtr ha)
    rw [deliver_of_toRq hf]
    exact ⟨hp, hlen, haq, hacc, haqAcc⟩
  | toAq =>
    obtain ⟨-, hide, hrtr, -, ha⟩ := filterMatch_eq_toAq hf
    obtain ⟨hlen, hacc⟩ := enqueue_keeps hp haq haqAcc (isAccepted_receivedFrame hide hrtr ha)
    rw [deliver_of_toAq hf]
    exact ⟨hp, hrq, hlen, hrqAcc, hacc⟩
  | drop =>
    rw [deliver_of_drop hf]
    exact ⟨hp, hrq, haq, hrqAcc, haqAcc⟩

/-- Taking frames away keeps the queues. -/
theorem QueueInv.of_suffix (hs : QueueInv s) (hparams : t.params = s.params) (hrq : t.rq <:+ s.rq)
    (haq : t.aq <:+ s.aq) : QueueInv t := by
  obtain ⟨hp, hrqLen, haqLen, hrqAcc, haqAcc⟩ := hs
  rw [QueueInv, hparams]
  exact ⟨hp, hrq.length_le.trans hrqLen, haq.length_le.trans haqLen,
    fun f hf => hrqAcc f (hrq.mem hf), fun f hf => haqAcc f (haq.mem hf)⟩

/-- A list that lost at most its head is a suffix of what it was. -/
theorem suffix_of_eq_or_cons {q l : List Frame} (h : q = l ∨ ∃ f, l = f :: q) : q <:+ l := by
  obtain rfl | ⟨f, rfl⟩ := h
  · exact List.suffix_rfl
  · exact List.suffix_cons ..

/-- The CORE takes frames from AQ and never adds one (40_codec.md R110). -/
theorem Effect.aq_suffix {o : Option Instr} (h : Effect s o t) : t.aq <:+ s.aq := by
  cases h
  case polls hq _ => exact suffix_of_eq_or_cons (.inr hq)
  case waitEnds hq =>
    exact suffix_of_eq_or_cons (hq.elim (fun ⟨_, _, hpolled⟩ => hpolled) fun ⟨_, hsame⟩ => .inl hsame)
  case waitPolls hq _ _ | waitResends hq _ _ =>
    exact suffix_of_eq_or_cons
      (hq.elim (fun ⟨_, hpolled, _⟩ => hpolled) fun ⟨_, hsame, _⟩ => .inl hsame)
  all_goals exact List.suffix_rfl

end

/-! ### The statements -/

/-- Settles O44: a delivery adds an accepted frame, and all other steps only take frames away. -/
theorem queueInvKept : Obligations.QueueInvKept := by
  intro s t hs h
  rcases next_effects h with ⟨f, rest, -, rfl⟩ | ⟨k, rest, -, rfl⟩ | ⟨u, o, hu, -, he⟩
  · exact QueueInv.deliver (s := { s with bus := rest }) hs f
  · obtain ⟨tx, wire, e⟩ := sendSlot_same { s with bus := rest } k
    rw [e]
    exact hs
  · obtain ⟨⟨rq, aq, host, bus, rfl⟩, hrq, haq, -⟩ := hu
    obtain ⟨hrqKept, -⟩ := he.inputs
    exact hs.of_suffix he.params_wire.1 (hrqKept ▸ suffix_of_eq_or_cons hrq)
      (he.aq_suffix.trans (suffix_of_eq_or_cons haq))

/-- Settles O10: the filters, in any state and in the one that NODEID_SET leaves. -/
theorem filterRoutes : Obligations.FilterRoutes := by
  refine ⟨fun s f => ⟨filterMatch_eq_toRq_iff s f, filterMatch_eq_toAq_iff s f,
    (filterMatch_of_unconfigured · f)⟩, fun s id hr hid => ?_⟩
  refine ⟨_, exec_nodeidSet_of_lt hr hid, fun f => ?_⟩
  rw [filterMatch_eq_toRq_iff, filterMatch_eq_toAq_iff]
  exact ⟨and_iff_right rfl, and_iff_right rfl⟩

/-- Settles O11: the filter names the queue, and the queue's room and overrun rule what it then holds. -/
theorem busDelivers : Obligations.BusDelivers := by
  intro s f rest hb
  refine ⟨step_of_deliver_drop hb, fun hf => ?_, fun hf => ?_⟩
  · have hstep := step_of_deliver_toRq hb hf
    exact ⟨fun h => enqueue_of_room h _ ▸ hstep, fun h ho => enqueue_of_dropNew h ho _ ▸ hstep,
      fun h ho => enqueue_of_dropOldest h ho _ ▸ hstep⟩
  · have hstep := step_of_deliver_toAq hb hf
    exact ⟨fun h => enqueue_of_room h _ ▸ hstep, fun h ho => enqueue_of_dropNew h ho _ ▸ hstep,
      fun h ho => enqueue_of_dropOldest h ho _ ▸ hstep⟩

end Sys2Proof.Machine

namespace Sys2Proof.Machine

/-! ## The transmit slots and the wire (40_codec.md R108, R109) -/

/-! ### A slot of the list -/

/-- Filling a free slot adds its frame to those in the slots. -/
theorem busyFrames_set_busy {tx : List Slot} {k : Nat} (hk : tx[k]? = some .free) (f : Frame) :
    (busyFrames (tx.set k (.busy f))).Perm (f :: busyFrames tx) := by
  induction tx generalizing k with
  | nil => simp at hk
  | cons slot rest ih =>
    cases k with
    | zero =>
      obtain rfl : slot = .free := by simpa using hk
      exact .refl _
    | succ k =>
      have hrest := ih (by simpa using hk : rest[k]? = some .free)
      cases slot with
      | free => exact hrest
      | busy g => exact (hrest.cons g).trans (.swap f g _)

/-- Freeing a busy slot takes its frame from those in the slots. -/
theorem busyFrames_set_free {tx : List Slot} {k : Nat} {f : Frame} (hk : tx[k]? = some (.busy f)) :
    (busyFrames tx).Perm (f :: busyFrames (tx.set k .free)) := by
  obtain ⟨hlt, hslot⟩ := List.getElem?_eq_some_iff.1 hk
  have hrefill : (tx.set k .free).set k (.busy f) = tx := by
    rw [List.set_set, ← hslot, List.set_getElem_self]
  have hfree : (tx.set k .free)[k]? = some .free := by simp [hlt]
  have hperm := busyFrames_set_busy hfree f
  rwa [hrefill] at hperm

theorem busyFrames_placeFrame {f : Frame} {tx tx' : List Slot} (h : placeFrame f tx = some tx') :
    (busyFrames tx').Perm (f :: busyFrames tx) := by
  obtain ⟨k, hk, -, rfl⟩ := placeFrame_eq_some h
  exact busyFrames_set_busy hk f

/-- A frame goes into the slot that is the lowest free one. -/
theorem placeFrame_of_lowestFree {tx : List Slot} {k : Nat} (h : LowestFree tx k) (f : Frame) :
    placeFrame f tx = some (tx.set k (.busy f)) := by
  obtain ⟨hk, hbelow⟩ := h
  cases hplace : placeFrame f tx with
  | none => exact absurd (List.mem_of_getElem? hk) ((placeFrame_eq_none_iff f tx).1 hplace)
  | some tx' =>
    obtain ⟨j, hj, hjbelow, rfl⟩ := placeFrame_eq_some hplace
    obtain hlt | rfl | hgt := lt_trichotomy j k
    · exact absurd hj (hbelow j hlt)
    · rfl
    · exact absurd hk (hjbelow k hgt)

section
variable {s t : State} {rest : List BusAction}

/-! ### Where the frames handed over are -/

theorem WireInv.sendSlot (hs : WireInv s) (k : Nat) : WireInv (s.sendSlot k) := by
  obtain ⟨hlen, hperm⟩ := hs
  rcases sendSlot_cases s k with ⟨f, hk, e⟩ | ⟨-, e⟩ <;> rw [e]
  · refine ⟨List.length_set.trans hlen, .trans ?_ hperm⟩
    rw [List.append_assoc, List.singleton_append]
    exact (busyFrames_set_free hk).symm.append_left s.wire
  · exact ⟨hlen, hperm⟩

theorem WireInv.effect {o : Option Instr} (hs : WireInv s) (h : Effect s o t) : WireInv t := by
  obtain ⟨hlen, hperm⟩ := hs
  obtain ⟨hparams, hwire⟩ := h.params_wire
  rcases h.transmits with ⟨htx, hrecord⟩ | ⟨f, hplace, hrecord⟩ <;>
    rw [WireInv, hparams, hwire, hrecord]
  · rw [htx]
    exact ⟨hlen, hperm⟩
  · refine ⟨(placeFrame_length hplace).trans hlen, ?_⟩
    calc List.Perm (s.wire ++ busyFrames t.tx) (s.wire ++ f :: busyFrames s.tx) :=
          (busyFrames_placeFrame hplace).append_left _
      List.Perm _ (f :: (s.wire ++ busyFrames s.tx)) := List.perm_middle
      List.Perm _ (f :: s.txRecord) := hperm.cons f
      List.Perm _ (s.txRecord ++ [f]) := (List.perm_append_singleton f _).symm

/-! ### A command at `Transmit` -/

/-- A command at `Transmit` goes on from there. -/
theorem step_of_transmit {p : Point} {f : Frame} (hq : Quiet s rest) (hr : s.run = some p)
    (hp : p.frame? = some f) : step s = .next ({ s with bus := rest }.resume p) := by
  rw [step_of_unfetched hq (fetch_with_bus (fetch_of_transmit hr hp) rest), State.proceed, hr]

/-- `Transmit` with a free slot hands the frame over in the lowest one. -/
theorem attempt_of_lowestFree {k : Nat} (h : LowestFree s.tx k) (f : Frame) (p : Point)
    (goOn : State → State) : s.attempt f p goOn = goOn (s.handed k f) := by
  rw [State.attempt, State.transmit, placeFrame_of_lowestFree h]
  rfl

end

/-! ### The statements -/

/-- Settles O49: a frame enters a slot with its entry in the record, and leaves it only for the wire. -/
theorem wireInvKept : Obligations.WireInvKept := by
  intro s t hs h
  rcases next_effects h with ⟨f, rest, -, rfl⟩ | ⟨k, rest, -, rfl⟩ | ⟨u, o, hu, -, he⟩
  · obtain ⟨rq, aq, e⟩ := deliver_same { s with bus := rest } f
    rw [e]
    exact hs
  · exact WireInv.sendSlot (s := { s with bus := rest }) hs k
  · obtain ⟨⟨rq, aq, host, bus, rfl⟩, -⟩ := hu
    exact WireInv.effect (s := { s with rq := rq, aq := aq, host := host, bus := bus }) hs he

/-- Settles O12: by whether the slot is busy. -/
theorem busSends : Obligations.BusSends := by
  intro s k rest hb
  rw [step_of_sent hb]
  rcases sendSlot_cases { s with bus := rest } k with ⟨g, hg, e⟩ | ⟨hidle, e⟩ <;> rw [e]
  · refine ⟨fun f hf => ?_, fun hn => absurd hg (hn g)⟩
    cases hg.symm.trans hf
    rfl
  · exact ⟨fun f hf => absurd hf (hidle f), fun _ => rfl⟩

/-- Settles O27: the hold, and for each command what it does with the frame in its slot. -/
theorem transmitStep : Obligations.TransmitStep := by
  intro s rest p f hq hr hp
  rw [step_of_transmit hq hr hp]
  refine ⟨fun hfull => ?_, fun k hk => ?_⟩
  · rw [resume_of_noneFree hp (by exact (noneFree_iff s.tx).1 hfull), stopAt_of_run (by exact hr)]
  · have sent (goOn : State → State) := attempt_of_lowestFree (s := { s with bus := rest }) hk f p goOn
    refine ⟨?_, ?_, ?_, ?_, ?_, ?_, ?_⟩
    all_goals
      intros
      subst p
      exact congrArg _ (sent _)

end Sys2Proof.Machine

namespace Sys2Proof.Machine

/-! ## Node identity (41_node_identity.md R130 to R132) -/

/-! ### The command words (30_encoding.md R79) -/

section
variable {cmd : BitVec 64} (data : BitVec 64)

theorem decodeCommand_of_init (h : cmdOp cmd = 0) : decodeCommand cmd data = .init := by
  rw [decodeCommand, if_pos h]

theorem decodeCommand_of_nodeidSet (h : cmdOp cmd = 1) :
    decodeCommand cmd data = .nodeidSet (cmdId cmd) := by
  simp [decodeCommand, h]

theorem decodeCommand_of_nodeidGet (h : cmdOp cmd = 2) : decodeCommand cmd data = .nodeidGet := by
  simp [decodeCommand, h]

end

/-! ### The role (60_exceptions.md R288) -/

section
variable {s : State}

theorem role_eq_master_iff (hc : s.configured = true) : s.role = .master ↔ isMasterId s.nodeId = true := by
  rw [State.role, if_pos hc, ite_eq_left_iff]
  simp

/-- A configured node is the one or the other. -/
theorem role_eq_slave_iff (hc : s.configured = true) : s.role = .slave ↔ s.role ≠ .master := by
  rw [State.role, if_pos hc]
  split <;> decide

end

/-- The low nibble of an ID survives the narrowing to 7 bits (00_scope.md R15). -/
theorem isMasterId_setWidth_iff (id : BitVec 8) : isMasterId (id.setWidth 7) = true ↔ id.toNat % 16 = 0 := by
  rw [isMasterId, beq_iff_eq, ← BitVec.toNat_inj, BitVec.extractLsb'_toNat, BitVec.toNat_setWidth]
  simp only [Nat.shiftRight_zero, BitVec.ofNat_eq_ofNat, BitVec.toNat_ofNat]
  omega

/-! ### The commands -/

section
variable {s : State} (hr : s.run = none)
include hr

theorem exec_init_of_idle (ho : s.outer = none) :
    exec .init s = .next (s.resetCore.finish (Result.ofStatus .success)) := by
  rw [exec, execInit, issue_of_idle hr, ho]
  rfl

theorem exec_init_of_call {c : HeldCall} (ho : s.outer = some c) :
    exec .init s = .refused .nestedInit := by
  rw [exec, execInit, issue_of_idle hr, ho]
  rfl

theorem exec_nodeidSet_of_le {id : BitVec 8} (hid : 128 ≤ id.toNat) :
    exec (.nodeidSet id) s = .next (s.finish (Result.ofStatus .invalidId)) := by
  rw [exec, execNodeidSet, issue_of_idle hr, if_pos hid]

theorem exec_nodeidGet_of_unconfigured (hc : s.configured = false) :
    exec .nodeidGet s = .next (s.finish (Result.ofId .notConfigured 0xFF)) := by
  rw [exec, execNodeidGet, issue_of_idle hr, if_pos hc]

theorem exec_nodeidGet_of_configured (hc : s.configured = true) :
    exec .nodeidGet s = .next (s.finish (Result.ofId .success (s.nodeId.setWidth 8))) := by
  rw [exec, execNodeidGet, issue_of_idle hr, if_neg (by rw [hc]; decide)]

end

/-! ### The statements -/

/-- Settles O16: by the depth; the reset leaves the node unconfigured, so its filters drop every frame. -/
theorem initResets : Obligations.InitResets := by
  refine ⟨fun cmd data hop => congrArg Except.ok (decodeCommand_of_init data hop), fun s hr => ?_⟩
  exact ⟨fun ho => ⟨_, exec_init_of_idle hr ho, rfl, filterMatch_of_unconfigured rfl⟩,
    fun _ ho => exec_init_of_call hr ho⟩

/-- Settles O17: by the range of the ID; within it the role is read off the ID that was written. -/
theorem nodeidSetResult : Obligations.NodeidSetResult := by
  refine ⟨fun cmd data hop => congrArg Except.ok (decodeCommand_of_nodeidSet data hop), fun s id hr => ?_⟩
  refine ⟨exec_nodeidSet_of_le hr, fun hid => ⟨_, exec_nodeidSet_of_lt hr hid, rfl, ?_⟩⟩
  refine (and_iff_left_of_imp fun hmaster => (role_eq_slave_iff rfl).trans (not_congr hmaster)).2 ?_
  exact (role_eq_master_iff rfl).trans (isMasterId_setWidth_iff id)

/-- Settles O18: by whether the node is configured. -/
theorem nodeidGetResult : Obligations.NodeidGetResult := by
  refine ⟨fun cmd data hop => congrArg Except.ok (decodeCommand_of_nodeidGet data hop), fun s hr => ?_⟩
  exact ⟨exec_nodeidGet_of_unconfigured hr, exec_nodeidGet_of_configured hr⟩

end Sys2Proof.Machine

namespace Sys2Proof.Machine

/-! ## SEND_REQ and SEND_REQ_AGAIN (42_master_request.md R150, R151) -/

theorem decodeCommand_of_sendReqAgain {cmd : BitVec 64} (h : cmdOp cmd = 4) (data : BitVec 64) :
    decodeCommand cmd data = .sendReqAgain (cmdNode cmd) := by
  simp [decodeCommand, h]

section
variable {s : State} {slave : BitVec 7} {tos : BitVec 2} {control : BitVec 16} {dlc : BitVec 4}
  {msg : Message} {f : Frame} {k : Nat}

/-! ### The checks in their order -/

theorem isMaster_iff (s : State) :
    s.isMaster = true ↔ s.configured = true ∧ s.nodeId.extractLsb' 0 4 = 0 := by
  rw [State.isMaster, Bool.and_eq_true, isMasterId, beq_iff_eq]

theorem sendReqFrame_of_unconfigured (hc : s.configured = false) :
    s.sendReqFrame slave tos control dlc msg = .error .notConfigured :=
  if_pos hc

theorem sendReqFrame_of_slave (hc : s.configured = true) (hm : s.nodeId.extractLsb' 0 4 ≠ 0) :
    s.sendReqFrame slave tos control dlc msg = .error .notMaster := by
  have hslave : isMasterId s.nodeId = false := beq_eq_false_iff_ne.2 hm
  simp [State.sendReqFrame, hc, hslave]

theorem sendReqFrame_of_long (hm : s.isMaster = true) (hd : 8 < dlc.toNat) :
    s.sendReqFrame slave tos control dlc msg = .error .invalidLength := by
  obtain ⟨hc, hid⟩ := (isMaster_iff s).1 hm
  simp [State.sendReqFrame, isMasterId, hc, hid, hd]

theorem sendReqFrame_of_master (hm : s.isMaster = true) (hd : dlc.toNat ≤ 8) :
    s.sendReqFrame slave tos control dlc msg = .ok (requestOf s.nodeId slave tos control dlc msg) := by
  obtain ⟨hc, hid⟩ := (isMaster_iff s).1 hm
  have hok : s.sendReqFrame slave tos control dlc msg = .ok (s.requestFrame slave tos control dlc msg) := by
    simp [State.sendReqFrame, isMasterId, hc, hid, Nat.not_lt.2 hd]
  exact hok

theorem resendFrame_of_unconfigured (hc : s.configured = false) :
    s.resendFrame slave = .error .notConfigured :=
  if_pos hc

theorem resendFrame_of_slave (hc : s.configured = true) (hm : s.nodeId.extractLsb' 0 4 ≠ 0) :
    s.resendFrame slave = .error .notMaster := by
  have hslave : isMasterId s.nodeId = false := beq_eq_false_iff_ne.2 hm
  simp [State.resendFrame, hc, hslave]

theorem resendFrame_of_no_pending (hm : s.isMaster = true)
    (hp : s.pending.valid = false ∨ s.pending.slaveId ≠ slave) :
    s.resendFrame slave = .error .sequenceError := by
  obtain ⟨hc, hid⟩ := (isMaster_iff s).1 hm
  simp [State.resendFrame, isMasterId, hc, hid, hp]

/-! ### The command at its `Transmit` -/

/-- SEND_REQ with its frame handed over in slot `k`: PENDING is the request (R150). -/
theorem resume_sendReq_of_lowestFree (h : LowestFree s.tx k) (slave : BitVec 7) (f : Frame) :
    s.resume (.sendReq slave f) = { s.handed k f with
      pending := ⟨true, slave, f.id, f.data, f.dlc⟩ }.returned (statusResult .success) :=
  attempt_of_lowestFree h f _ _

/-- SEND_REQ_AGAIN with its frame handed over in slot `k`: PENDING is unchanged (R151). -/
theorem resume_sendReqAgain_of_lowestFree (h : LowestFree s.tx k) (f : Frame) :
    s.resume (.sendReqAgain f) = (s.handed k f).returned (statusResult .success) :=
  attempt_of_lowestFree h f _ _

theorem resume_of_full {p : Point} (hp : p.frame? = some f) (h : NoneFree s.tx) :
    s.resume p = { s with run := some p } :=
  resume_of_noneFree hp ((noneFree_iff s.tx).1 h)

theorem transmitThen_sendReq (slave : BitVec 7) (f : Frame) : TransmitThen (.sendReq slave f) f
    fun v => { v with pending := ⟨true, slave, f.id, f.data, f.dlc⟩ }.returned (statusResult .success) := by
  intro u rest hq hr
  obtain ⟨hold, sent⟩ := transmitStep u rest _ f hq hr rfl
  refine ⟨hold, fun n hn => ?_⟩
  obtain ⟨hreq, -⟩ := sent n hn
  exact hreq slave rfl

theorem transmitThen_sendReqAgain (f : Frame) : TransmitThen (.sendReqAgain f) f
    fun v => v.returned (statusResult .success) := by
  intro u rest hq hr
  obtain ⟨hold, sent⟩ := transmitStep u rest _ f hq hr rfl
  refine ⟨hold, fun n hn => ?_⟩
  obtain ⟨-, hagain, -⟩ := sent n hn
  exact hagain rfl

/-! ### The commands -/

section
variable (hr : s.run = none)
include hr

theorem exec_sendReq_of_error {e : Status}
    (h : s.sendReqFrame slave tos control dlc msg = .error e) :
    exec (.sendReq slave tos control dlc msg) s = .next (s.returned (statusResult e)) := by
  rw [exec, execSendReq, issue_of_idle hr, h]
  rfl

theorem exec_sendReq_of_ok (h : s.sendReqFrame slave tos control dlc msg = .ok f) :
    exec (.sendReq slave tos control dlc msg) s = .next (s.resume (.sendReq slave f)) := by
  rw [exec, execSendReq, issue_of_idle hr, h]

theorem exec_sendReqAgain_of_error {e : Status} (h : s.resendFrame slave = .error e) :
    exec (.sendReqAgain slave) s = .next (s.returned (statusResult e)) := by
  rw [exec, execSendReqAgain, issue_of_idle hr, h]
  rfl

theorem exec_sendReqAgain_of_ok (h : s.resendFrame slave = .ok f) :
    exec (.sendReqAgain slave) s = .next (s.resume (.sendReqAgain f)) := by
  rw [exec, execSendReqAgain, issue_of_idle hr, h]

/-- SEND_REQ on a master with a free slot (R150). -/
theorem exec_sendReq_of_lowestFree (hm : s.isMaster = true) (hd : dlc.toNat ≤ 8) (hk : LowestFree s.tx k) :
    exec (.sendReq slave tos control dlc msg) s =
      .next ({ s.handed k (requestOf s.nodeId slave tos control dlc msg) with
        pending := ⟨true, slave, pack ⟨control, tos, s.nodeId.extractLsb' 4 3, slave, 0⟩,
          msg.keep dlc.toNat, dlc⟩ }.returned (statusResult .success)) := by
  rw [exec_sendReq_of_ok hr (sendReqFrame_of_master hm hd), resume_sendReq_of_lowestFree hk]
  rfl

/-- SEND_REQ_AGAIN on a master with PENDING to the slave and a free slot (R151). -/
theorem exec_sendReqAgain_of_lowestFree (hm : s.isMaster = true) (hv : s.pending.valid = true)
    (hs : s.pending.slaveId = slave) (hk : LowestFree s.tx k) : exec (.sendReqAgain slave) s =
      .next ((s.handed k s.pendingFrame).returned (statusResult .success)) := by
  rw [exec_sendReqAgain_of_ok hr (resendFrame_pending hm hv hs), resume_sendReqAgain_of_lowestFree hk]

end

/-- A frame handed over by a command that then ends is the last of the transmit record. -/
theorem txRecord_handed_returned (s : State) (k : Nat) (f : Frame) (r : Result) :
    ((s.handed k f).returned r).txRecord = s.txRecord ++ [f] :=
  (finish_txRecord ..).trans (txRecord_of_transmit rfl)

end

/-! ### The statements -/

/-- Settles O19: by its checks in order, and then by whether a slot is free. -/
theorem sendReqResult : Obligations.SendReqResult := by
  refine ⟨fun cmd data hop => congrArg Except.ok (decodeCommand_of_sendReq hop data),
    fun s slave tos control dlc msg hr => ⟨?_, ?_, ?_, ?_⟩⟩
  · exact fun hc => exec_sendReq_of_error hr (sendReqFrame_of_unconfigured hc)
  · exact fun hc hm => exec_sendReq_of_error hr (sendReqFrame_of_slave hc hm)
  · exact fun hc hm hd =>
      exec_sendReq_of_error hr (sendReqFrame_of_long ((isMaster_iff s).2 ⟨hc, hm⟩) hd)
  · intro hc hid hd
    have hm := (isMaster_iff s).2 ⟨hc, hid⟩
    refine ⟨fun k hk => exec_sendReq_of_lowestFree hr hm hd hk, fun hfull => ?_, transmitThen_sendReq _ _⟩
    rw [exec_sendReq_of_ok hr (sendReqFrame_of_master hm hd), resume_of_full rfl hfull]

/-- Settles O20: by its checks in order, and then by whether a slot is free. -/
theorem sendReqAgainResult : Obligations.SendReqAgainResult := by
  refine ⟨fun cmd data hop => congrArg Except.ok (decodeCommand_of_sendReqAgain hop data),
    fun s slave hr => ⟨?_, ?_, ?_, ?_⟩⟩
  · exact fun hc => exec_sendReqAgain_of_error hr (resendFrame_of_unconfigured hc)
  · exact fun hc hm => exec_sendReqAgain_of_error hr (resendFrame_of_slave hc hm)
  · exact fun hc hm hp =>
      exec_sendReqAgain_of_error hr (resendFrame_of_no_pending ((isMaster_iff s).2 ⟨hc, hm⟩) hp)
  · intro hc hid hv hs
    have hm := (isMaster_iff s).2 ⟨hc, hid⟩
    refine ⟨fun k hk => exec_sendReqAgain_of_lowestFree hr hm hv hs hk, fun hfull => ?_,
      transmitThen_sendReqAgain _⟩
    rw [exec_sendReqAgain_of_ok hr (resendFrame_pending hm hv hs), resume_of_full rfl hfull]
    rfl

/-- Keeping the bytes of a kept payload again changes nothing. -/
theorem keep_keep (n : Nat) (m : Message) : (m.keep n).keep n = m.keep n :=
  keep_of_zeroFrom (keep_zeroFrom n m)

/-- Settles O21: PENDING holds the whole identifier and the kept payload, and a resend reads nothing else. -/
theorem resendIsBitIdentical : Obligations.ResendIsBitIdentical := by
  intro s slave tos control dlc msg hr hc hid hd ⟨k, hk⟩
  have hm := (isMaster_iff s).2 ⟨hc, hid⟩
  refine ⟨_, requestOf s.nodeId slave tos control dlc msg, exec_sendReq_of_lowestFree hr hm hd hk,
    txRecord_handed_returned s k _ _, fun u hru hcu hidu hpending ⟨j, hj⟩ => ?_⟩
  have hmu := (isMaster_iff u).2 ⟨hcu, hidu⟩
  have hframe : u.pendingFrame = requestOf s.nodeId slave tos control dlc msg := by
    rw [State.pendingFrame, hpending]
    exact congrArg (Frame.mk true false _ dlc) (keep_keep ..)
  refine ⟨_, exec_sendReqAgain_of_lowestFree hru hmu (by rw [hpending]; rfl) (by rw [hpending]; rfl) hj,
    ?_, hpending⟩
  rw [hframe]
  exact txRecord_handed_returned u j _ _

end Sys2Proof.Machine

namespace Sys2Proof.Machine

/-! ## Polling for an acknowledge (42_master_request.md R152 to R154; 43_discovery.md R192 to R195) -/

section
variable {s : State} {slave c : BitVec 7} {n b : Nat} {f : Frame} {q : List Frame} {r : Result}
  {rest : List BusAction}

/-! ### What a poll answers -/

theorem receiveAck_of_foreign (h : ¬ IsFrom slave (unpack f.id).control) (s : State) :
    s.receiveAck slave f = (Result.ofStatus .pending, s.logDiscard f) := by
  simp [State.receiveAck, fromSlave, h]

theorem receiveAck_of_tos_retry (h : IsFrom slave (unpack f.id).control) (ht : (unpack f.id).tos = tosRetry)
    (s : State) : s.receiveAck slave f = (Result.ofStatus .retryRequested, s) := by
  simp [State.receiveAck, fromSlave, h, ht]

theorem receiveAck_of_tos_ne_retry (h : IsFrom slave (unpack f.id).control)
    (ht : (unpack f.id).tos ≠ tosRetry) (s : State) : s.receiveAck slave f =
      (Result.ofAck (receivedPayload f.dlc f.data) f.dlc (unpack f.id).tos, s) := by
  simp [State.receiveAck, fromSlave, h, ht]

theorem pollAck_of_empty (h : s.aq = []) (slave : BitVec 7) :
    s.pollAck slave = (Result.ofStatus .pending, s) := by
  simp [State.pollAck, h]

theorem pollAck_of_cons (h : s.aq = f :: q) (slave : BitVec 7) :
    s.pollAck slave = { s with aq := q }.receiveAck slave f := by
  simp [State.pollAck, h]

/-! ### The acknowledge rows -/

theorem exec_decodeAck (u : IdFields) (dlc : BitVec 4) (data : Message) (s : State) :
    exec (decodeAck u dlc data) s = s.takeAck (ackFrame (frameOps u dlc data) u.tos) := by
  obtain h | h | h | h := tos_cases u.tos <;> simp only [decodeAck, h] <;> rfl

/-- An acknowledge row takes the frame that decoded to it (30_encoding.md R75). -/
theorem exec_of_decode_ack {i : Instr} (hd : decode (.frame f) = .ok i) (ha : (unpack f.id).ack = 1)
    (s : State) : exec i s = s.takeAck f := by
  obtain ⟨hide, hrtr, ⟨hreq, -⟩ | ⟨-, rfl⟩⟩ := decode_frame_eq_ok hd
  · rw [ha] at hreq
    exact absurd hreq (by decide)
  · have hframe := encodeFrame_frameOps hide hrtr
    rw [ha] at hframe
    rw [exec_decodeAck, show ackFrame _ _ = f from Words.frame.inj hframe]

/-! ### The loop after a poll -/

theorem afterPoll_success (h : r.status = .success) (s : State) (slave : BitVec 7) :
    s.afterPoll slave r = (.done r, { s with budget := none }) := by
  simp only [State.afterPoll, h]

theorem afterPoll_pending (hb : s.budget = some b) (hpos : 1 < b) (slave : BitVec 7) :
    s.afterPoll slave (Result.ofStatus .pending) = (.poll, { s with budget := some (b - 1) }) := by
  have hleft : b - 1 ≠ 0 := by omega
  simp [State.afterPoll, Result.ofStatus, hb, hleft]

theorem afterPoll_last_pending (hb : s.budget = some 1) (slave : BitVec 7) :
    s.afterPoll slave (Result.ofStatus .pending) =
      (.done (Result.ofStatus .timeout), { s with budget := none }) := by
  simp [State.afterPoll, Result.ofStatus, hb]

/-! ### A poll does not read where the command stands -/

theorem afterPoll_stopAt (s : State) (p : Point) (slave : BitVec 7) (r : Result) :
    (s.stopAt p).afterPoll slave r = (s.afterPoll slave r).map id (·.stopAt p) := by
  have hresend : (s.stopAt p).resendFrame slave = s.resendFrame slave := rfl
  unfold State.afterPoll
  rw [hresend, stopAt_budget]
  split
  · rfl
  · split <;> rfl
  · split <;> rfl

theorem waitAckWith_stopAt (a : Result × State) (p : Point) (slave : BitVec 7) :
    State.waitAckWith slave (a.map id (·.stopAt p)) = State.waitAckWith slave a := by
  obtain ⟨r, t⟩ := a
  simp only [State.waitAckWith, Prod.map_apply, id_eq, afterPoll_stopAt]
  cases t.afterPoll slave r with
  | mk next u => cases next <;> rfl

theorem receiveAck_stopAt (s : State) (p : Point) (slave : BitVec 7) (f : Frame) :
    (s.stopAt p).receiveAck slave f = (s.receiveAck slave f).map id (·.stopAt p) := by
  unfold State.receiveAck
  split_ifs <;> rfl

theorem pollAck_stopAt (s : State) (p : Point) (slave : BitVec 7) :
    (s.stopAt p).pollAck slave = (s.pollAck slave).map id (·.stopAt p) := by
  cases h : s.aq with
  | nil =>
    rw [pollAck_of_empty (by exact h), pollAck_of_empty h]
    rfl
  | cons f q =>
    rw [pollAck_of_cons (by exact h), pollAck_of_cons h]
    exact receiveAck_stopAt { s with aq := q } p slave f

/-! ### The commands -/

theorem exec_waitAckNb (hr : s.run = none) (slave : BitVec 7) :
    exec (.waitAckNb slave) s = .next ((s.pollAck slave).2.finish (s.pollAck slave).1) := by
  rw [exec, execWaitAckNb, issue_of_idle hr]

/-- WAIT_ACK at its poll with `b` polls left. -/
def State.polling (s : State) (slave : BitVec 7) (b : Nat) : State :=
  { s with run := some (.waitAck slave), budget := some b }

/-- WAIT_ACK begins as if it were at its poll with the whole budget (42_master_request.md R154). -/
theorem exec_waitAck (hr : s.run = none) (slave : BitVec 7) : exec (.waitAck slave) s = .next
    (State.waitAckWith slave ((s.polling slave s.params.ackPollBudget).pollAck slave)) := by
  have hpoll := pollAck_stopAt s.refill (.waitAck slave) slave
  rw [exec, execWaitAck, issue_of_idle hr, State.resume, ← waitAckWith_stopAt _ (.waitAck slave), ← hpoll]
  rfl

/-- At a poll of an empty AQ nothing is fetched. -/
theorem fetch_of_empty_aq {p : Point} (hr : s.run = some p) (hp : p.stmt = .pollAck) (hq : s.aq = []) :
    s.fetch = none := by
  cases p <;> simp_all [State.fetch, Point.stmt]

theorem step_of_empty_aq {p : Point} (hb : Quiet s rest) (hr : s.run = some p) (hp : p.stmt = .pollAck)
    (hq : s.aq = []) : step s = .next ({ s with bus := rest }.resume p) := by
  rw [step_of_unfetched hb (fetch_with_bus (fetch_of_empty_aq hr hp hq) rest), State.proceed, hr]

/-- WAIT_ACK's poll takes the acknowledge at the head of AQ. -/
theorem step_of_waitAck_accepted (hb : Quiet s rest) (hr : s.run = some (.waitAck slave))
    (hq : s.aq = f :: q) (hf : IsAccepted 1 f) : step s =
      .next (State.waitAckWith slave ({ s with bus := rest, aq := q }.receiveAck slave f)) := by
  obtain ⟨hide, hrtr, ha, -⟩ := hf
  obtain ⟨i, hd⟩ := exists_decode_frame hide hrtr
  rw [step_of_fetched hb (fetch_of_waitAck hr hq) hd, exec_of_decode_ack hd ha]
  exact takeAck_of_waitAck (s := { s with bus := rest, aq := q }) hr f

/-! ### The probe (43_discovery.md R192 to R195) -/

theorem firstInvalid_of_firstFree {rs : List SlaveRecord} {j : Nat} (h : FirstFree rs j) :
    firstInvalid rs = some j := by
  obtain ⟨hj, hbelow⟩ := h
  simp only [Option.map_eq_some_iff] at hj hbelow
  obtain ⟨free, hfree, hinvalid⟩ := hj
  cases hfirst : firstInvalid rs with
  | none => simp [firstInvalid_eq_none hfirst free (List.mem_of_getElem? hfree)] at hinvalid
  | some i =>
    obtain ⟨hi, hibelow⟩ := firstInvalid_eq_some hfirst
    obtain hlt | rfl | hgt := lt_trichotomy i j
    · grind
    · rfl
    · grind

theorem firstInvalid_of_full {rs : List SlaveRecord} (h : TableFull rs) : firstInvalid rs = none := by
  cases hfirst : firstInvalid rs with
  | none => rfl
  | some i =>
    obtain ⟨⟨free, hfree, hinvalid⟩, -⟩ := firstInvalid_eq_some hfirst
    simp [h free (List.mem_of_getElem? hfree)] at hinvalid

theorem allocate_of_firstFree {j : Nat} (h : FirstFree s.slaveRecord j) (c : BitVec 7) (pong : Message) :
    s.allocate c pong = { s with
      slaveRecord := s.slaveRecord.set j ⟨true, pong⟩
      slaveIndex := s.slaveIndex.set (c.toNat - s.params.scanFirst.toNat) (.found j) } := by
  rw [State.allocate, firstInvalid_of_firstFree h]
  rfl

theorem allocate_of_full (h : TableFull s.slaveRecord) (c : BitVec 7) (pong : Message) :
    s.allocate c pong = s.setIndex c .absent := by
  rw [State.allocate, firstInvalid_of_full h]

/-- A failed probe counts the candidate below the limit, and gives it up at the limit (R195). -/
theorem probeFailed_eq (s : State) (c : BitVec 7) (n : Nat) : s.probeFailed c n =
    s.setIndex c (if n < s.params.scanRetryLimit then .unresolved n else .absent) := by
  simp only [State.probeFailed, ← Nat.not_lt, ite_not]

theorem probeWith_of_success (h : r.status = .success) (c : BitVec 7) (n : Nat) (s : State) :
    State.probeWith c n (r, s) = ({ s with budget := none }.allocate c r.data).beginDrain := by
  simp only [State.probeWith, afterPoll_success h, h, if_true]

theorem probeWith_of_resend (h : s.resendFrame c = .ok f) (n : Nat) :
    State.probeWith c n (Result.ofStatus .retryRequested, s) = s.stopAt (.probeResend c n f) := by
  simp only [State.probeWith, afterPoll_retry h]

theorem probeWith_of_pending (hr : s.run = some (.probeWait c n)) (hb : s.budget = some b) (hpos : 1 < b) :
    State.probeWith c n (Result.ofStatus .pending, s) = { s with budget := some (b - 1) } := by
  simp only [State.probeWith, afterPoll_pending hb hpos]
  exact stopAt_of_run hr

/-- The last poll that hears nothing fails the probe, and HANDLER goes on to its drain. -/
theorem probeWith_of_last_pending (hb : s.budget = some 1) (c : BitVec 7) (n : Nat) :
    State.probeWith c n (Result.ofStatus .pending, s) = { s with
      budget := none
      slaveIndex := s.slaveIndex.set (c.toNat - s.params.scanFirst.toNat)
        (if n < s.params.scanRetryLimit then .unresolved n else .absent)
      locked := none
      run := some .drain } := by
  have htimeout : (Result.ofStatus .timeout).status ≠ .success := nofun
  simp only [State.probeWith, afterPoll_last_pending hb, if_neg htimeout, probeFailed_eq]
  rfl

theorem takeAck_of_probeWait (hr : s.run = some (.probeWait c n)) (f : Frame) :
    s.takeAck f = .next (State.probeWith c n (s.receiveAck c f)) := by
  simp [State.takeAck, hr]

section
variable {o : FrameOps} (hr : s.run = some (.probeWait c n))
include hr

theorem takeAck_probe_answer (hfrom : IsFrom c o.control) {tos : BitVec 2} (htos : tos ≠ tosRetry) :
    s.takeAck (ackFrame o tos) =
      .next ({ s with budget := none }.allocate c (o.data.keep (min o.dlc.toNat 8))).beginDrain := by
  rw [takeAck_of_probeWait hr, receiveAck_of_answer hfrom htos, probeWith_of_success rfl]
  rfl

/-- An answer of the candidate gives it the first free slot, or makes it Absent (R194). -/
theorem takeAck_probe_resolves (hfrom : IsFrom c o.control) {tos : BitVec 2} (htos : tos ≠ tosRetry) :
    (∀ j, FirstFree s.slaveRecord j → s.takeAck (ackFrame o tos) = .next { s with
      budget := none
      slaveRecord := s.slaveRecord.set j ⟨true, o.data.keep (min o.dlc.toNat 8)⟩
      slaveIndex := s.slaveIndex.set (c.toNat - s.params.scanFirst.toNat) (.found j)
      locked := none
      run := some .drain }) ∧
    (TableFull s.slaveRecord → s.takeAck (ackFrame o tos) = .next { s with
      budget := none
      slaveIndex := s.slaveIndex.set (c.toNat - s.params.scanFirst.toNat) .absent
      locked := none
      run := some .drain }) := by
  rw [takeAck_probe_answer hr hfrom htos]
  refine ⟨fun j hj => ?_, fun hfull => ?_⟩
  · rw [allocate_of_firstFree (by exact hj)]
    rfl
  · rw [allocate_of_full (by exact hfull)]
    rfl

/-- An acknowledge that is not from the candidate is logged, and uses up a poll (R153, R195). -/
theorem takeAck_probe_other (hfrom : ¬ IsFrom c o.control) (tos : BitVec 2) (hb : s.budget = some b) :
    (1 < b → s.takeAck (ackFrame o tos) = .next { s with
      budget := some (b - 1)
      record := s.record ++ [Observation.discardedAck (ackFrame o tos)] }) ∧
    (b = 1 → s.takeAck (ackFrame o tos) = .next { s with
      budget := none
      record := s.record ++ [Observation.discardedAck (ackFrame o tos)]
      slaveIndex := s.slaveIndex.set (c.toNat - s.params.scanFirst.toNat)
        (if n < s.params.scanRetryLimit then .unresolved n else .absent)
      locked := none
      run := some .drain }) := by
  rw [takeAck_of_probeWait hr, receiveAck_of_other hfrom]
  refine ⟨fun hpos => ?_, ?_⟩
  · rw [probeWith_of_pending (s := s.logDiscard _) hr hb hpos]
    rfl
  · rintro rfl
    rw [probeWith_of_last_pending (s := s.logDiscard _) hb]
    rfl

end

end

/-! ### The statements -/

theorem decodeCommand_of_waitAckNb {cmd : BitVec 64} (h : cmdOp cmd = 5) (data : BitVec 64) :
    decodeCommand cmd data = .waitAckNb (cmdNode cmd) := by
  simp [decodeCommand, h]

theorem decodeCommand_of_waitAck {cmd : BitVec 64} (h : cmdOp cmd = 6) (data : BitVec 64) :
    decodeCommand cmd data = .waitAck (cmdNode cmd) := by
  simp [decodeCommand, h]

/-- Settles O22: by what AQ holds, and for an acknowledge by its sender and its `tos`. -/
theorem waitAckNbResult : Obligations.WaitAckNbResult := by
  refine ⟨fun cmd data hop => congrArg Except.ok (decodeCommand_of_waitAckNb hop data), fun s slave hr => ?_⟩
  rw [exec_waitAckNb hr]
  refine ⟨fun hq => ?_, fun f q hq => ?_⟩
  · rw [pollAck_of_empty hq]
    rfl
  · rw [pollAck_of_cons hq]
    refine ⟨fun hfrom => ?_, fun hfrom htos => ?_, fun hfrom htos => ?_⟩
    · rw [receiveAck_of_foreign hfrom]
      rfl
    · rw [receiveAck_of_tos_retry hfrom htos]
      rfl
    · rw [receiveAck_of_tos_ne_retry hfrom htos]
      rfl

/-- Settles O23: the first poll is one with the whole budget. -/
theorem waitAckStarts : Obligations.WaitAckStarts := by
  refine ⟨fun cmd data hop => congrArg Except.ok (decodeCommand_of_waitAck hop data), fun s slave hr => ?_⟩
  rw [exec_waitAck hr]
  refine ⟨fun hq hpos => ?_, fun hq hlast => ?_, fun f q hq hfrom htos => ?_, fun f q i hq hbit hd => ?_⟩
  · rw [pollAck_of_empty (by exact hq), waitAckWith_of_pending rfl rfl hpos]
    rfl
  · rw [hlast, pollAck_of_empty (by exact hq), waitAckWith_of_last_pending rfl]
    rfl
  · rw [pollAck_of_cons (by exact hq), receiveAck_of_tos_ne_retry hfrom htos, waitAckWith_of_success _ rfl]
    rfl
  · rw [pollAck_of_cons (by exact hq), exec_of_decode_ack hd ((unpack_ack_eq_one_iff _).2 hbit),
      takeAck_of_waitAck rfl]
    rfl

/-- Settles O24: by the command at the poll and whether the poll is the last. -/
theorem emptyPoll : Obligations.EmptyPoll := by
  intro s rest b hquiet hq hb
  refine ⟨fun slave hr => ?_, fun c n hr => ?_⟩
  · rw [step_of_empty_aq hquiet hr rfl hq, State.resume, pollAck_of_empty (by exact hq)]
    refine ⟨fun hpos => ?_, ?_⟩
    · rw [waitAckWith_of_pending (by exact hr) (by exact hb) hpos]
    · rintro rfl
      rw [waitAckWith_of_last_pending (by exact hb)]
  · rw [step_of_empty_aq hquiet hr rfl hq, State.resume, pollAck_of_empty (by exact hq)]
    refine ⟨fun hpos => ?_, ?_⟩
    · rw [probeWith_of_pending (by exact hr) (by exact hb) hpos]
    · rintro rfl
      rw [probeWith_of_last_pending (by exact hb)]

/-- Settles O26: by the sender and the row. -/
theorem ackAtProbe : Obligations.AckAtProbe := by
  intro s c n o hr
  refine ⟨fun hfrom => ?_, fun hfrom hm hv hs => ?_, fun hfrom b hb => ?_⟩
  · simp only [List.forall_mem_cons, List.not_mem_nil, false_imp_iff, implies_true, and_true]
    exact ⟨takeAck_probe_resolves hr hfrom (by decide), takeAck_probe_resolves hr hfrom (by decide),
      takeAck_probe_resolves hr hfrom (by decide)⟩
  · rw [exec, execAckRetry, takeAck_of_probeWait hr, receiveAck_of_retry hfrom,
      probeWith_of_resend (resendFrame_pending hm hv hs)]
    rfl
  · simp only [List.forall_mem_cons, List.not_mem_nil, false_imp_iff, implies_true, and_true]
    exact ⟨takeAck_probe_other hr hfrom tosOk hb, takeAck_probe_other hr hfrom tosRead hb,
      takeAck_probe_other hr hfrom tosRetry hb, takeAck_probe_other hr hfrom tosError hb⟩

end Sys2Proof.Machine

namespace Sys2Proof.Machine

/-! ## Runs of WAIT_ACK with the BUS silent (42_master_request.md R155, R156) -/

/-- The BUS has nothing to do, now or later. -/
def Silent (s : State) : Prop := s.bus = [] ∧ s.busCycle = []

theorem AckScript.status {full b n : Nat} {slave : BitVec 7} {fs : List Frame} {r : Result}
    (h : AckScript full slave b fs n r) : r.status = .success := by
  induction h with
  | last => rfl
  | retry | other => assumption

theorem AckScript.exists_head {full b n : Nat} {slave : BitVec 7} {fs : List Frame} {r : Result}
    (h : AckScript full slave b fs n r) : ∃ f q, fs = f :: q ∧ IsAccepted 1 f := by
  cases h with
  | last _ f hf => exact ⟨f, [], rfl, hf⟩
  | retry _ _ f rest _ hf => exact ⟨f, rest, rfl, hf⟩
  | other _ _ f rest _ hf => exact ⟨f, rest, rfl, hf⟩

/-- Handing a frame over takes one free slot. -/
theorem count_free_placeFrame {f : Frame} {tx tx' : List Slot} (h : placeFrame f tx = some tx') :
    tx.count .free = tx'.count .free + 1 := by
  induction tx generalizing tx' with
  | nil => cases h
  | cons slot rest ih =>
    cases slot with
    | free =>
      cases h
      simp
    | busy g =>
      obtain ⟨rest', hrest, rfl⟩ := Option.map_eq_some_iff.1 h
      simpa using ih hrest

section
variable {s t w : State} {slave : BitVec 7} {b k n : Nat} {f : Frame} {q : List Frame} {r : Result}

theorem Silent.quiet (h : Silent s) : Quiet s [] := .inl ⟨h.1, h.2.symm⟩

theorem Silent.with_bus (h : Silent s) : { s with bus := [] } = s := by
  rw [← h.1]

/-- From states with the same step the runs are the same. -/
theorem run_of_step_eq (h : step s = step w) (hk : 1 ≤ k) :
    Host.Core.run Sys2Proof.core k s = Host.Core.run Sys2Proof.core k w := by
  obtain ⟨j, rfl⟩ := Nat.exists_eq_add_of_le' hk
  have hstep : Sys2Proof.core.step s = Sys2Proof.core.step w := h
  simp only [Host.Core.run, hstep]

/-! ### The poll as a step -/

/-- With the BUS silent, WAIT_ACK's step at a queue that is empty or begins with an acknowledge is its poll. -/
theorem next_of_waitAck (hs : Silent s) (hr : s.run = some (.waitAck slave))
    (hq : s.aq = [] ∨ ∃ f q, s.aq = f :: q ∧ IsAccepted 1 f) :
    Next s (State.waitAckWith slave (s.pollAck slave)) := by
  obtain hq | ⟨f, q, hq, hf⟩ := hq
  · rw [Next, step_of_empty_aq hs.quiet hr rfl hq, hs.with_bus, State.resume]
  · rw [Next, step_of_waitAck_accepted hs.quiet hr hq hf, pollAck_of_cons hq]
    exact congrArg (fun u : State => Host.Outcome.next
      (State.waitAckWith slave ({ u with aq := q }.receiveAck slave f))) hs.with_bus

/-- The step that issues WAIT_ACK is that of a WAIT_ACK at its poll with the whole budget (log 2). -/
theorem step_of_issued_waitAck {cmd data : BitVec 64} {more : List HostAction} (hs : Silent s)
    (hr : s.run = none) (hh : s.host = .command cmd data :: more)
    (hd : decode (.command cmd data) = .ok (.waitAck slave))
    (hq : s.aq = [] ∨ ∃ f q, s.aq = f :: q ∧ IsAccepted 1 f) :
    step s = step ({ s with host := more }.polling slave s.params.ackPollBudget) := by
  have hpoll := next_of_waitAck (s := { s with host := more }.polling slave s.params.ackPollBudget)
    hs rfl hq
  rw [hpoll, step_of_fetched hs.quiet (fetch_of_idle (by exact hr) (by exact hh)) hd,
    exec_waitAck (by exact hr), ← hs.1]

/-! ### With no acknowledge (R155) -/

/-- Each poll of an empty queue but the last uses up one of the polls left. -/
theorem run_polls (hs : Silent s) (hr : s.run = some (.waitAck slave)) (hq : s.aq = [])
    (hb : s.budget = some b) (hk : k < b) :
    Host.Core.run Sys2Proof.core k s = .next { s with budget := some (b - k) } := by
  induction k generalizing s b with
  | zero =>
    rw [Nat.sub_zero, ← hb]
    rfl
  | succ k ih =>
    have hnext : Next s { s with budget := some (b - 1) } := by
      have hpoll := next_of_waitAck hs hr (.inl hq)
      rwa [pollAck_of_empty hq, waitAckWith_of_pending hr hb (by omega)] at hpoll
    rw [run_of_next hnext, ih (s := { s with budget := some (b - 1) }) hs hr hq rfl (by omega),
      show b - 1 - k = b - (k + 1) by omega]

/-- The last poll left of an empty queue ends WAIT_ACK. -/
theorem run_timeout (hs : Silent s) (hr : s.run = some (.waitAck slave)) (hq : s.aq = [])
    (hb : s.budget = some b) (hpos : 1 ≤ b) : Host.Core.run Sys2Proof.core b s =
      .next ({ s with budget := none }.returned (statusResult .timeout)) := by
  obtain ⟨k, rfl⟩ := Nat.exists_eq_add_of_le' hpos
  have hpolls := run_polls hs hr hq hb (Nat.lt_succ_self k)
  rw [Nat.add_sub_cancel_left] at hpolls
  have hlast : Next { s with budget := some 1 }
      ({ s with budget := none }.returned (statusResult .timeout)) := by
    have hpoll := next_of_waitAck (s := { s with budget := some 1 }) hs hr (.inl hq)
    rwa [pollAck_of_empty (by exact hq), waitAckWith_of_last_pending rfl] at hpoll
  rw [run_add hpolls, run_of_next hlast]
  rfl

/-! ### With a script of acknowledges (R156) -/

/-- WAIT_ACK is at its poll for the slave that PENDING is for, on a master, with the BUS silent and a free
slot for each of `n` resends. -/
structure ResendReady (slave : BitVec 7) (n : Nat) (s : State) : Prop where
  silent : Silent s
  run : s.run = some (.waitAck slave)
  master : s.isMaster = true
  valid : s.pending.valid = true
  slaveId : s.pending.slaveId = slave
  slots : n ≤ s.tx.count .free

/-- WAIT_ACK running in `s` has ended in `t` with result `r`, AQ used up and PENDING resent `n` times. -/
structure WaitEnded (s t : State) (n : Nat) (r : Result) : Prop where
  run : t.run = none
  res : t.res = r
  aq : t.aq = []
  budget : t.budget = none
  host : t.host = s.host
  pending : t.pending = s.pending
  txRecord : t.txRecord = s.txRecord ++ List.replicate n s.pendingFrame

/-- What an acknowledge that is not RETRY ends the command with. -/
theorem next_of_answer (hs : ResendReady slave n s) (hq : s.aq = f :: q) (hf : IsAccepted 1 f)
    (hfrom : IsFrom slave (unpack f.id).control) (htos : (unpack f.id).tos ≠ 2) :
    Next s ({ s with aq := q, budget := none }.returned ⟨.success, 0, f.dlc, (unpack f.id).tos, f.data⟩) := by
  have hpoll := next_of_waitAck hs.silent hs.run (.inr ⟨f, q, hq, hf⟩)
  obtain ⟨-, -, -, hdata⟩ := hf
  rwa [pollAck_of_cons hq, receiveAck_of_tos_ne_retry hfrom htos, receivedPayload_of_ok hdata,
    waitAckWith_of_success _ rfl] at hpoll

/-- An acknowledge of another sender is logged and uses up a poll. -/
theorem next_of_foreign (hs : ResendReady slave n s) (hb : s.budget = some b) (hq : s.aq = f :: q)
    (hf : IsAccepted 1 f) (hfrom : ¬ IsFrom slave (unpack f.id).control) (hpos : 1 < b) :
    Next s { s.logDiscard f with aq := q, budget := some (b - 1) } := by
  have hpoll := next_of_waitAck hs.silent hs.run (.inr ⟨f, q, hq, hf⟩)
  rw [pollAck_of_cons hq, receiveAck_of_foreign hfrom] at hpoll
  rwa [waitAckWith_of_pending (by exact hs.run) (by exact hb) hpos] at hpoll

/-- RETRY and the resend after it, two steps: PENDING goes out again, and WAIT_ACK polls with the whole
budget (R154). -/
theorem run_of_retry (hs : ResendReady slave (n + 1) s) (hq : s.aq = f :: q) (hf : IsAccepted 1 f)
    (hfrom : IsFrom slave (unpack f.id).control) (htos : (unpack f.id).tos = 2) :
    ∃ tx, placeFrame s.pendingFrame s.tx = some tx ∧ Host.Core.run Sys2Proof.core 2 s =
      .next ((sending { s with aq := q } tx s.pendingFrame).polling slave s.params.ackPollBudget) := by
  have hpq : PollAndResend slave s.pendingFrame (.waitAck slave) (.waitAckResend slave s.pendingFrame) :=
    .inl ⟨rfl, rfl⟩
  have hheard : Next s ({ s with aq := q }.stopAt (.waitAckResend slave s.pendingFrame)) := by
    have hpoll := next_of_waitAck hs.silent hs.run (.inr ⟨f, q, hq, hf⟩)
    rwa [pollAck_of_cons hq, receiveAck_of_tos_retry hfrom htos, waitAckWith_of_resend
      (s := { s with aq := q }) (resendFrame_pending hs.master hs.valid hs.slaveId)] at hpoll
  obtain ⟨tx, htx⟩ : ∃ tx, placeFrame s.pendingFrame s.tx = some tx :=
    Option.ne_none_iff_exists'.1 fun hn =>
      (placeFrame_eq_none_iff s.pendingFrame s.tx).1 hn
        (List.count_pos_iff.1 (Nat.lt_of_lt_of_le n.succ_pos hs.slots))
  have hsent : Next ({ s with aq := q }.stopAt (.waitAckResend slave s.pendingFrame))
      ((sending { s with aq := q } tx s.pendingFrame).polling slave s.params.ackPollBudget) := by
    have hsilent : Silent ({ s with aq := q }.stopAt (.waitAckResend slave s.pendingFrame)) := hs.silent
    rw [Next, step_of_transmit hsilent.quiet rfl hpq.frame, hsilent.with_bus,
      resume_resend hpq (by exact htx)]
    rfl
  exact ⟨tx, htx, by rw [run_of_next hheard, run_of_next hsent]; rfl⟩

/-- On a script of acknowledges WAIT_ACK ends with the script's result, one step for each acknowledge and
one for each resend. -/
theorem run_of_script {fs : List Frame} (h : AckScript s.params.ackPollBudget slave b fs n r)
    (hs : ResendReady slave n s) (hq : s.aq = fs) (hb : s.budget = some b) :
    ∃ t, Host.Core.run Sys2Proof.core (fs.length + n) s = .next t ∧ WaitEnded s t n r := by
  generalize hfull : s.params.ackPollBudget = full at h
  induction h generalizing s with
  | last b f hf hfrom htos =>
    refine ⟨_, run_of_next (next_of_answer hs hq hf hfrom htos) 0, ?_⟩
    exact ⟨rfl, rfl, rfl, rfl, rfl, rfl, (finish_txRecord ..).trans (List.append_nil _).symm⟩
  | retry b n f rest r hf hfrom htos _ ih =>
    obtain ⟨tx, htx, hrun⟩ := run_of_retry hs hq hf hfrom htos
    have hcount := count_free_placeFrame htx
    have hslots := hs.slots
    have hready : ResendReady slave n
        ((sending { s with aq := rest } tx s.pendingFrame).polling slave s.params.ackPollBudget) :=
      ⟨hs.silent, rfl, hs.master, hs.valid, hs.slaveId,
        show n ≤ tx.count .free by omega⟩
    obtain ⟨t, ht, hend⟩ := ih hready rfl (congrArg some hfull) hfull
    refine ⟨t, ?_, hend.run, hend.res, hend.aq, hend.budget, hend.host, hend.pending, ?_⟩
    · rw [show (f :: rest).length + (n + 1) = 2 + (rest.length + n) by rw [List.length_cons]; omega,
        run_add hrun, ht]
    · rw [hend.txRecord, txRecord_of_transmit (s := s) rfl, List.append_assoc]
      rfl
  | other b n f rest r hf hfrom hpos _ ih =>
    have hready : ResendReady slave n { s.logDiscard f with aq := rest, budget := some (b - 1) } :=
      ⟨hs.silent, hs.run, hs.master, hs.valid, hs.slaveId, hs.slots⟩
    obtain ⟨t, ht, hend⟩ := ih hready rfl rfl hfull
    refine ⟨t, ?_, hend.run, hend.res, hend.aq, hend.budget, hend.host, hend.pending, ?_⟩
    · rw [show (f :: rest).length + n = rest.length + n + 1 by rw [List.length_cons]; omega,
        run_of_next (next_of_foreign hs hb hq hf hfrom hpos), ht]
    · rw [hend.txRecord, txRecord_of_logged (s := s) (.inr ⟨f, rfl⟩)]
      rfl

end

/-! ### The statements -/

/-- Settles O57: the run is that of a WAIT_ACK already at its poll, which uses up its polls one by one. -/
theorem timeoutAfterBudget : Obligations.TimeoutAfterBudget := by
  intro s cmd data slave more hbus hcycle hr hh hq hd hpos
  have hs : Silent s := ⟨hbus, hcycle⟩
  have hissue := step_of_issued_waitAck hs hr hh hd (.inl hq)
  exact ⟨(run_of_step_eq hissue hpos).trans (run_timeout (by exact hs) rfl hq rfl hpos),
    fun k hk hlt => (run_of_step_eq hissue hk).trans (run_polls (by exact hs) rfl hq rfl hlt)⟩

/-- Settles O58: the run is that of a WAIT_ACK already at its poll, by induction on the script. -/
theorem retriesThenSuccess : Obligations.RetriesThenSuccess := by
  intro s cmd data slave more fs n r hbus hcycle hr hh hd hm hv hslave hq hscript hslots
  have hs : Silent s := ⟨hbus, hcycle⟩
  obtain ⟨f, q, rfl, hf⟩ := hscript.exists_head
  have hissue := step_of_issued_waitAck hs hr hh hd (.inr ⟨f, q, hq, hf⟩)
  obtain ⟨t, ht, hend⟩ := run_of_script hscript
    (s := { s with host := more }.polling slave s.params.ackPollBudget)
    ⟨hs, rfl, hm, hv, hslave, hslots⟩ hq rfl
  have hlen : 1 ≤ (f :: q).length + n := by
    rw [List.length_cons]
    omega
  exact ⟨t, (run_of_step_eq hissue hlen).trans ht, hend.run, hend.res, hscript.status, hend.aq,
    hend.budget, hend.host, hend.pending, hend.txRecord⟩

end Sys2Proof.Machine

namespace Sys2Proof.Machine

/-! ## SUCC (43_discovery.md R191) -/

theorem candidateSucc_toNat {p : Params} {c : BitVec 7} (hc : c.toNat ≤ p.scanLast.toNat) :
    (candidateSucc p c).toNat = if c = p.scanLast then p.scanFirst.toNat else c.toNat + 1 := by
  unfold candidateSucc
  split
  · rfl
  · bv_omega

/-- Settles O30: by whether the ID is the last one of the range. -/
theorem succCyclesInRange : Obligations.SuccCyclesInRange := by
  refine ⟨fun _ _ => rfl, fun p h => if_pos h, fun p c hfirst hlast => ?_⟩
  have hsucc := candidateSucc_inRange (hfirst.trans hlast) ((inCandidateRange_iff p c).2 ⟨hfirst, hlast⟩)
  rw [inCandidateRange_iff] at hsucc
  exact ⟨hsucc.1, hsucc.2, fun hne => (candidateSucc_toNat hlast).trans (if_neg hne)⟩

end Sys2Proof.Machine

namespace Sys2Proof.Machine

/-! ## The transitions of a candidate's entry (43_discovery.md R190, R194, R195) -/

/-! ### What the end of a probe may write -/

theorem firstFree_of_firstInvalid {rs : List SlaveRecord} {i : Nat} (h : firstInvalid rs = some i) :
    FirstFree rs i := by
  obtain ⟨hi, hbelow⟩ := firstInvalid_eq_some h
  simpa only [FirstFree, Option.map_eq_some_iff] using And.intro hi hbelow

/-- A failed probe counts its candidate, and at the limit gives it up (43_discovery.md R195). -/
theorem entryMove_failed {p : Params} {m : Nat} (hm : m < p.scanRetryLimit) (rs : List SlaveRecord) :
    EntryMove p rs (.unresolved m)
      (if p.scanRetryLimit ≤ m + 1 then .absent else .unresolved (m + 1)) := by
  split
  · exact .exhausted m (by omega)
  · exact .count m (by omega)

/-- Between `s` and `t`, SLAVE_INDEX changed at the entry of `c` alone, from Unresolved(`m`) to `e`, by a
transition of 43_discovery.md R190. -/
structure EntryMoved (s t : State) (c : BitVec 7) (m : Nat) (e : IndexEntry) : Prop where
  params : t.params = s.params
  old : s.indexOf c = some (.unresolved m)
  index : t.slaveIndex = s.slaveIndex.set (c.toNat - s.params.scanFirst.toNat) e
  move : EntryMove s.params s.slaveRecord (.unresolved m) e

section
variable {s t : State} {o : Option Instr} {c : BitVec 7} {m : Nat} {e : IndexEntry}

theorem inCandidateRange_of_indexOf (h : s.indexOf c = some e) : inCandidateRange s.params c = true := by
  by_contra hc
  simp [State.indexOf, hc] at h

theorem getElem?_of_indexOf (h : s.indexOf c = some e) :
    s.slaveIndex[c.toNat - s.params.scanFirst.toNat]? = some e :=
  indexOf_of_inRange (inCandidateRange_of_indexOf h) ▸ h

theorem EntryMoved.indexOf (h : EntryMoved s t c m e) (d : BitVec 7) :
    t.indexOf d = if d = c then some e else s.indexOf d := by
  obtain ⟨hparams, hold, hindex, -⟩ := h
  have hc := inCandidateRange_of_indexOf hold
  obtain ⟨hlt, -⟩ := List.getElem?_eq_some_iff.1 (getElem?_of_indexOf hold)
  split
  · subst d
    rw [indexOf_of_inRange (hparams ▸ hc), hparams, hindex, List.getElem?_set_self hlt]
  · by_cases hd : inCandidateRange s.params d = true
    · have hpos : c.toNat - s.params.scanFirst.toNat ≠ d.toNat - s.params.scanFirst.toNat := by
        rw [inCandidateRange_iff] at hc hd
        bv_omega
      rw [indexOf_of_inRange hd, indexOf_of_inRange (hparams ▸ hd), hparams, hindex,
        List.getElem?_set_ne hpos]
    · simp [State.indexOf, hparams, hd]

theorem TableInv.count_lt (hs : TableInv s) (h : s.indexOf c = some (.unresolved m)) :
    m < s.params.scanRetryLimit :=
  hs.entries _ (List.mem_of_getElem? (getElem?_of_indexOf h))

/-! ### The writers of SLAVE_INDEX -/

/-- Every effect but INIT's leaves SLAVE_INDEX as it is, or ends a probe whose candidate's entry moves. -/
theorem TableInv.entry_effect (hs : TableInv s) (h : Effect s o t) :
    t.slaveIndex = s.slaveIndex ∨ o = some .init ∨
      ∃ c n m e, s.run = some (.probeWait c n) ∧ t.run = some .drain ∧ EntryMoved s t c m e := by
  cases h
  case resets => exact .inr (.inl rfl)
  case found c n rec pong i hr _ hi =>
    obtain ⟨-, m, hm, -⟩ := hs.probing _ c n hr rfl
    exact .inr (.inr ⟨c, n, m, _, hr, rfl, rfl, hm, rfl, .find m i (firstFree_of_firstInvalid hi)⟩)
  case full c n rec hr _ hi =>
    obtain ⟨-, m, hm, -⟩ := hs.probing _ c n hr rfl
    exact .inr (.inr ⟨c, n, m, _, hr, rfl, rfl, hm, rfl, .full m (firstInvalid_eq_none hi)⟩)
  case failed c n rec hr _ =>
    obtain ⟨-, m, hm, rfl⟩ := hs.probing _ c n hr rfl
    exact .inr (.inr ⟨c, m + 1, m, _, hr, rfl, rfl, hm, rfl, entryMove_failed (hs.count_lt hm) _⟩)
  all_goals exact .inl rfl

/-- The tables do not read the queues or the inputs. -/
theorem TableInv.with_inputs (hs : TableInv s) (rq aq : List Frame) (host : List HostAction)
    (bus : List BusAction) : TableInv { s with rq := rq, aq := aq, host := host, bus := bus } :=
  ⟨hs.valid, hs.indexLength, hs.recordLength, hs.entries, hs.oneSlot, hs.recorded, hs.cursor, hs.probing⟩

end

/-- Settles O53: the BUS writes no entry, and an effect writes that of the candidate whose probe it ends. -/
theorem entryTransitions : Obligations.EntryTransitions := by
  intro s t hs h hinit d
  rcases next_inputs_or_effect h with ⟨rq, aq, tx, wire, bus, rfl⟩ |
    ⟨o, u, ⟨rq, aq, host, bus, rfl⟩, hruns, he⟩
  · exact .inl rfl
  · obtain ⟨hparams, -⟩ := he.params_wire
    rcases (hs.with_inputs rq aq host bus).entry_effect he with
      hindex | rfl | ⟨c, n, m, e, hr, ht, hmoved⟩
    · exact .inl (by simp [State.indexOf, hparams, hindex])
    · exact absurd (hruns _ rfl) (hinit _)
    · have hnew := hmoved.indexOf d
      split at hnew
      · subst d
        exact .inr ⟨m, n, e, hr, ht, hmoved.old, hnew, hmoved.move⟩
      · exact .inl hnew

end Sys2Proof.Machine

namespace Sys2Proof.Machine

/-! ## Discovery terminates (43_discovery.md R191, R192, R197) -/

/-! ### How far the cyclic successor has to go -/

/-- How many times SUCC leads from `a` to `b`. -/
def succDistance (p : Params) (a b : BitVec 7) : Nat :=
  if a.toNat ≤ b.toNat then b.toNat - a.toNat else p.rangeSize - (a.toNat - b.toNat)

section
variable {p : Params} {a b : BitVec 7}

@[simp] theorem succDistance_self (p : Params) (a : BitVec 7) : succDistance p a a = 0 := by
  simp [succDistance]

theorem succDistance_lt (ha : inCandidateRange p a = true) (hb : inCandidateRange p b = true) :
    succDistance p a b < p.rangeSize := by
  rw [inCandidateRange_iff] at ha hb
  unfold succDistance Params.rangeSize
  split <;> omega

/-- Different IDs are at different distances. -/
theorem succDistance_inj {d : BitVec 7} (ha : inCandidateRange p a = true) (hb : inCandidateRange p b = true)
    (hd : inCandidateRange p d = true) (h : succDistance p a b = succDistance p a d) : b = d := by
  rw [inCandidateRange_iff] at ha hb hd
  unfold succDistance Params.rangeSize at h
  apply BitVec.eq_of_toNat_eq
  split at h <;> split at h <;> omega

/-- SUCC goes one step towards every other ID, and the whole way round from the one it leaves. -/
theorem succDistance_succ (ha : inCandidateRange p a = true) (hb : inCandidateRange p b = true) :
    succDistance p (candidateSucc p a) b + 1 = if a = b then p.rangeSize else succDistance p a b := by
  rw [inCandidateRange_iff] at ha hb
  simp only [succDistance, Params.rangeSize, candidateSucc_toNat ha.2, ← BitVec.toNat_inj]
  split_ifs <;> omega

/-! ### The same with one ID skipped -/

/-- How many IDs but `own` SUCC visits from `a` before it is at `b`. -/
def skipDistance (p : Params) (own a b : BitVec 7) : Nat :=
  succDistance p a b -
    if inCandidateRange p own ∧ succDistance p a own < succDistance p a b then 1 else 0

/-- How many IDs but `own` the range holds. -/
def skipSize (p : Params) (own : BitVec 7) : Nat :=
  if inCandidateRange p own then p.rangeSize - 1 else p.rangeSize

/-- SUCC, over `own`. -/
def skipSucc (p : Params) (own a : BitVec 7) : BitVec 7 :=
  if candidateSucc p a = own then candidateSucc p own else candidateSucc p a

variable {own : BitVec 7}

theorem skipDistance_lt (ha : inCandidateRange p a = true) (hb : inCandidateRange p b = true)
    (hne : b ≠ own) : skipDistance p own a b < skipSize p own := by
  have hlt := succDistance_lt ha hb
  unfold skipDistance skipSize
  by_cases hown : inCandidateRange p own = true
  · have hfar := mt (succDistance_inj ha hb hown) hne
    have hown_lt := succDistance_lt ha hown
    simp only [hown, true_and, if_true]
    split <;> omega
  · simpa [hown] using hlt

/-- Skipping brings every other ID one visit nearer, and the one it leaves to the end of the round. -/
theorem skipDistance_skipSucc (ha : inCandidateRange p a = true) (hb : inCandidateRange p b = true)
    (hane : a ≠ own) (hbne : b ≠ own) :
    skipDistance p own (skipSucc p own a) b + 1 =
      if a = b then skipSize p own else skipDistance p own a b := by
  obtain ⟨hfirst, hlast⟩ := (inCandidateRange_iff p a).1 ha
  have hsucc := candidateSucc_inRange (hfirst.trans hlast) ha
  have hstep := succDistance_succ ha hb
  unfold skipDistance skipSize skipSucc
  by_cases hown : inCandidateRange p own = true
  · have hlt := succDistance_lt ha hb
    have hfar := succDistance_lt ha hown
    have hne := mt (succDistance_inj ha hb hown) hbne
    have hstepOwn := succDistance_succ ha hown
    rw [if_neg hane] at hstepOwn
    simp only [hown, if_true, true_and]
    by_cases hskip : candidateSucc p a = own
    · have hround := succDistance_succ hown hown
      have hover := succDistance_succ hown hb
      rw [if_pos rfl] at hround
      rw [if_neg hbne.symm] at hover
      rw [hskip] at hstep hstepOwn
      rw [succDistance_self] at hstepOwn
      rw [if_pos hskip]
      split_ifs at hstep ⊢ <;> omega
    · rw [if_neg hskip]
      split_ifs at hstep ⊢ <;> omega
  · have hskip : candidateSucc p a ≠ own := fun h => hown (h ▸ hsucc)
    simpa [hown, hskip] using hstep

end

/-! ### How many SCAN_STEPs until a candidate is examined -/

/-- How many SCAN_STEPs examine another candidate before `c` (43_discovery.md R192). -/
def State.roundsUntil (s : State) (c : BitVec 7) : Nat :=
  skipDistance s.params s.nodeId s.scanCandidate c

/-- The tables and the cursor are in order, whatever command is running. -/
def ScanReady (s : State) : Prop := TableInv { s with run := none }

section
variable {s : State} {c : BitVec 7}

theorem TableInv.scanReady (h : TableInv s) : ScanReady s :=
  ⟨h.valid, h.indexLength, h.recordLength, h.entries, h.oneSlot, h.recorded, h.cursor, nofun⟩

theorem isCandidate_iff (s : State) (c : BitVec 7) :
    s.isCandidate c = true ↔ inCandidateRange s.params c = true ∧ c ≠ s.nodeId := by
  simp [State.isCandidate]

theorem ScanReady.scanCandidate_inRange (hs : ScanReady s) :
    inCandidateRange s.params s.scanCandidate = true :=
  TableInv.scanCandidate_inRange (s := { s with run := none }) hs

/-- With a candidate in the range, the ID that a SCAN_STEP examines is one. -/
theorem ScanReady.scanCandidate_ne (hs : ScanReady s) (hc : s.isCandidate c = true) :
    s.scanCandidate ≠ s.nodeId := by
  obtain ⟨hc, hne⟩ := (isCandidate_iff s c).1 hc
  by_cases hown : s.scanCursor = s.nodeId
  · have hnode : inCandidateRange s.params s.nodeId = true := hown ▸ hs.cursor
    rw [State.scanCandidate, if_pos hown, hown]
    intro hfix
    have hround := succDistance_succ hnode hnode
    have hfar := succDistance_lt hnode hc
    have hzero := mt (succDistance_inj hnode hc hnode) hne
    simp only [hfix, succDistance_self, if_true] at hround hzero
    omega
  · rwa [State.scanCandidate, if_neg hown]

theorem scanCandidate_advanceCursor (s : State) :
    s.advanceCursor.scanCandidate = skipSucc s.params s.nodeId s.scanCandidate := by
  show (if candidateSucc s.params s.scanCandidate = s.nodeId then
    candidateSucc s.params (candidateSucc s.params s.scanCandidate) else _) = _
  unfold skipSucc
  split
  · rename_i h
    rw [h]
  · rfl

/-- The candidate that is examined comes round again after all the others; each other one is a round
nearer. -/
theorem ScanReady.roundsUntil_advanceCursor (hs : ScanReady s) (hc : s.isCandidate c = true) :
    s.advanceCursor.roundsUntil c + 1 =
      if s.scanCandidate = c then s.candidateCount else s.roundsUntil c := by
  have hne := hs.scanCandidate_ne hc
  rw [isCandidate_iff] at hc
  rw [State.roundsUntil, scanCandidate_advanceCursor]
  exact skipDistance_skipSucc hs.scanCandidate_inRange hc.1 hne hc.2

end

end Sys2Proof.Machine

namespace Sys2Proof.Machine

section
variable {s t : State} {c : BitVec 7} {m : Nat}

/-! ### What a SCAN_STEP leaves in the tables -/

/-- `t` is `s` after the probe of `c`, whose entry was Unresolved(`m`), has ended: the entry moved, and the
tables are in order. -/
def EndsProbe (s t : State) (c : BitVec 7) (m : Nat) : Prop :=
  ∃ e records, EntryMove s.params s.slaveRecord (.unresolved m) e ∧
    TablesOk s.params (s.slaveIndex.set (c.toNat - s.params.scanFirst.toNat) e) records ∧
    t = { s with
      slaveIndex := s.slaveIndex.set (c.toNat - s.params.scanFirst.toNat) e
      slaveRecord := records }

theorem endsProbe_allocate (hs : TablesOk s.params s.slaveIndex s.slaveRecord)
    (hm : s.indexOf c = some (.unresolved m)) (pong : Message) : EndsProbe s (s.allocate c pong) c m := by
  have hold := getElem?_of_indexOf hm
  rcases allocate_cases s c pong with ⟨i, hi, h⟩ | ⟨hi, h⟩
  · exact ⟨_, _, .find m i (firstFree_of_firstInvalid hi), hs.set_found hold hi pong, h⟩
  · exact ⟨_, _, .full m (firstInvalid_eq_none hi), hs.set_not_found hold trivial nofun, h⟩

theorem endsProbe_probeFailed (hs : TablesOk s.params s.slaveIndex s.slaveRecord)
    (hm : s.indexOf c = some (.unresolved m)) : EndsProbe s (s.probeFailed c (m + 1)) c m := by
  have hold := getElem?_of_indexOf hm
  refine ⟨_, _, entryMove_failed (hs.entries _ (List.mem_of_getElem? hold)) _, ?_, rfl⟩
  split
  · exact hs.set_not_found hold trivial nofun
  · exact hs.set_not_found hold (by simp_all [EntryOk]) nofun

theorem EndsProbe.entryMoved (h : EndsProbe s t c m) (hm : s.indexOf c = some (.unresolved m)) :
    ∃ e, EntryMoved s t c m e := by
  obtain ⟨e, records, hmove, -, rfl⟩ := h
  exact ⟨e, rfl, hm, rfl, hmove⟩

theorem scanProbe_of_unresolved (hne : s.scanCandidate ≠ s.nodeId)
    (hm : s.indexOf s.scanCandidate = some (.unresolved m)) :
    s.scanProbe = some (s.scanCandidate, m + 1) := by
  simp [State.scanProbe, hne, hm]

theorem TablesOk.scanReady (h : TablesOk s.params s.slaveIndex s.slaveRecord) (hv : s.params.Valid)
    (hc : inCandidateRange s.params s.scanCursor = true) : ScanReady s :=
  ⟨hv, h.indexLength, h.recordLength, h.entries, h.oneSlot, h.recorded, hc, nofun⟩

theorem ScanReady.tablesOk (hs : ScanReady s) : TablesOk s.params s.slaveIndex s.slaveRecord :=
  TableInv.tablesOk (s := { s with run := none }) hs

/-- A SCAN_STEP moves the cursor, and ends the probe of the candidate it examines if that is Unresolved. -/
theorem ScanReady.scanRound_cases (hs : ScanReady s) (a : Option Message) :
    (s.scanProbe = none ∧ s.scanRound a = s.advanceCursor) ∨
    ∃ m, s.indexOf s.scanCandidate = some (.unresolved m) ∧
      EndsProbe s.advanceCursor (s.scanRound a) s.scanCandidate m := by
  cases hp : s.scanProbe with
  | none => exact .inl ⟨rfl, by simp only [State.scanRound, hp]⟩
  | some cn =>
    obtain ⟨c, n⟩ := cn
    obtain ⟨rfl, -, m, hm, rfl⟩ := scanProbe_eq_some hp
    refine .inr ⟨m, hm, ?_⟩
    simp only [State.scanRound, hp]
    cases a with
    | none => exact endsProbe_probeFailed (s := s.advanceCursor) hs.tablesOk hm
    | some pong => exact endsProbe_allocate (s := s.advanceCursor) hs.tablesOk hm pong

/-- SCAN_STEPs change neither the parameters nor the node identity, and leave the tables in order. -/
theorem ScanReady.scanRound (hs : ScanReady s) (a : Option Message) :
    ScanReady (s.scanRound a) ∧ (s.scanRound a).params = s.params ∧ (s.scanRound a).nodeId = s.nodeId ∧
      (s.scanRound a).scanCursor = s.advanceCursor.scanCursor := by
  have hcursor : inCandidateRange s.params s.advanceCursor.scanCursor = true := by
    obtain ⟨-, -, -, hrange, -⟩ := hs.valid
    exact candidateSucc_inRange hrange hs.scanCandidate_inRange
  rcases hs.scanRound_cases a with ⟨-, h⟩ | ⟨m, -, e, records, -, htables, h⟩ <;> rw [h]
  · exact ⟨TablesOk.scanReady hs.tablesOk hs.valid hcursor, rfl, rfl, rfl⟩
  · exact ⟨TablesOk.scanReady htables hs.valid hcursor, rfl, rfl, rfl⟩

/-! ### How many SCAN_STEPs until a candidate is resolved -/

/-- An upper bound of the SCAN_STEPs until `c` is resolved: until it is examined, and then a round of all
the candidates for each further count that the limit allows (43_discovery.md R197). -/
def State.roundsDue (s : State) (c : BitVec 7) : Nat :=
  match s.indexOf c with
  | some (.unresolved m) => s.roundsUntil c + 1 + (s.params.scanRetryLimit - (m + 1)) * s.candidateCount
  | _ => 0

theorem roundsDue_of_unresolved (h : s.indexOf c = some (.unresolved m)) :
    s.roundsDue c = s.roundsUntil c + 1 + (s.params.scanRetryLimit - (m + 1)) * s.candidateCount := by
  rw [State.roundsDue, h]

theorem roundsDue_of_resolved (h : ∀ m, s.indexOf c ≠ some (.unresolved m)) : s.roundsDue c = 0 := by
  unfold State.roundsDue
  split
  · exact absurd ‹_› (h _)
  · rfl

/-- At the start of a scan at most K * SCAN_RETRY_LIMIT SCAN_STEPs are due. -/
theorem ScanReady.roundsDue_le (hs : ScanReady s) (hc : s.isCandidate c = true) :
    s.roundsDue c ≤ s.candidateCount * s.params.scanRetryLimit := by
  obtain ⟨-, -, -, -, hlimit, -⟩ := hs.valid
  by_cases h : ∃ m, s.indexOf c = some (.unresolved m)
  · obtain ⟨m, hm⟩ := h
    have hne := hs.scanCandidate_ne hc
    rw [isCandidate_iff] at hc
    have huntil : s.roundsUntil c < s.candidateCount :=
      skipDistance_lt hs.scanCandidate_inRange hc.1 hc.2
    rw [roundsDue_of_unresolved hm]
    calc s.roundsUntil c + 1 + (s.params.scanRetryLimit - (m + 1)) * s.candidateCount
        ≤ s.candidateCount + (s.params.scanRetryLimit - 1) * s.candidateCount :=
          Nat.add_le_add huntil (Nat.mul_le_mul_right _ (by omega))
      _ = (s.params.scanRetryLimit - 1 + 1) * s.candidateCount := by ring
      _ = s.candidateCount * s.params.scanRetryLimit := by rw [Nat.sub_add_cancel hlimit, Nat.mul_comm]
  · rw [roundsDue_of_resolved (not_exists.1 h)]
    exact Nat.zero_le _

/-- The entry of a candidate that is not examined stays as it is. -/
theorem ScanReady.scanRound_indexOf_of_ne (hs : ScanReady s) (a : Option Message)
    (hne : s.scanCandidate ≠ c) : (s.scanRound a).indexOf c = s.indexOf c := by
  rcases hs.scanRound_cases a with ⟨-, h⟩ | ⟨m, hm, hend⟩
  · rw [h]
    rfl
  · obtain ⟨e, hmoved⟩ := hend.entryMoved hm
    exact (hmoved.indexOf c).trans (if_neg hne.symm)

/-- An entry that is not Unresolved stays as it is. -/
theorem ScanReady.scanRound_indexOf_of_resolved (hs : ScanReady s) (a : Option Message)
    (hres : ∀ m, s.indexOf c ≠ some (.unresolved m)) : (s.scanRound a).indexOf c = s.indexOf c := by
  rcases hs.scanRound_cases a with ⟨-, h⟩ | ⟨m, hm, -⟩
  · rw [h]
    rfl
  · exact hs.scanRound_indexOf_of_ne a fun hx => hres m (hx ▸ hm)

/-- The entry of the candidate that is examined moves if it is Unresolved. -/
theorem ScanReady.scanRound_indexOf_self (hs : ScanReady s) (a : Option Message)
    (hown : s.scanCandidate ≠ s.nodeId) (hm : s.indexOf s.scanCandidate = some (.unresolved m)) :
    ∃ e, (s.scanRound a).indexOf s.scanCandidate = some e ∧
      EntryMove s.params s.slaveRecord (.unresolved m) e := by
  rcases hs.scanRound_cases a with ⟨hnone, -⟩ | ⟨m', hm', hend⟩
  · exact nomatch hnone.symm.trans (scanProbe_of_unresolved hown hm)
  · cases hm.symm.trans hm'
    obtain ⟨e, hmoved⟩ := hend.entryMoved hm
    exact ⟨e, (hmoved.indexOf _).trans (if_pos rfl), hmoved.move⟩

theorem ScanReady.candidateCount_scanRound (hs : ScanReady s) (a : Option Message) :
    (s.scanRound a).candidateCount = s.candidateCount := by
  obtain ⟨-, hparams, hnode, -⟩ := hs.scanRound a
  simp only [State.candidateCount, hparams, hnode]

theorem ScanReady.roundsUntil_scanRound (hs : ScanReady s) (hc : s.isCandidate c = true)
    (a : Option Message) : (s.scanRound a).roundsUntil c + 1 =
      if s.scanCandidate = c then s.candidateCount else s.roundsUntil c := by
  obtain ⟨-, hparams, hnode, hcursor⟩ := hs.scanRound a
  have hsame : (s.scanRound a).roundsUntil c = s.advanceCursor.roundsUntil c := by
    simp only [State.roundsUntil, State.scanCandidate, hparams, hnode, hcursor]
    rfl
  rw [hsame, hs.roundsUntil_advanceCursor hc]

/-- The SCAN_STEP that examines an Unresolved candidate takes one off what is due for it: a round of all the
candidates is then due for one count fewer, or nothing at all. -/
theorem ScanReady.roundsDue_scanRound_self (hs : ScanReady s) (hc : s.isCandidate s.scanCandidate = true)
    (hm : s.indexOf s.scanCandidate = some (.unresolved m)) (a : Option Message) :
    (s.scanRound a).roundsDue s.scanCandidate ≤ s.roundsDue s.scanCandidate - 1 := by
  obtain ⟨-, hparams, -⟩ := hs.scanRound a
  obtain ⟨e, he, hmove⟩ := hs.scanRound_indexOf_self a (hs.scanCandidate_ne hc) hm
  cases hmove with
  | count _ hlt =>
    have hround : s.params.scanRetryLimit - (m + 1) = s.params.scanRetryLimit - (m + 1 + 1) + 1 := by
      omega
    rw [roundsDue_of_unresolved he, roundsDue_of_unresolved hm, hs.candidateCount_scanRound,
      hs.roundsUntil_scanRound hc, if_pos rfl, hparams, hround, Nat.add_mul, Nat.one_mul]
    omega
  | exhausted | full | find =>
    rw [roundsDue_of_resolved (by simp [he])]
    exact Nat.zero_le _

/-- Every SCAN_STEP takes one off what is due for each candidate. -/
theorem ScanReady.roundsDue_scanRound (hs : ScanReady s) (hc : s.isCandidate c = true)
    (a : Option Message) : (s.scanRound a).roundsDue c ≤ s.roundsDue c - 1 := by
  by_cases hres : ∀ m, s.indexOf c ≠ some (.unresolved m)
  · rw [roundsDue_of_resolved (by simpa only [hs.scanRound_indexOf_of_resolved a hres] using hres)]
    exact Nat.zero_le _
  · obtain ⟨m, hm⟩ := not_forall_not.1 hres
    by_cases hx : s.scanCandidate = c
    · subst hx
      exact hs.roundsDue_scanRound_self hc hm a
    · obtain ⟨-, hparams, -⟩ := hs.scanRound a
      rw [roundsDue_of_unresolved ((hs.scanRound_indexOf_of_ne a hx).trans hm),
        roundsDue_of_unresolved hm, hs.candidateCount_scanRound, hs.roundsUntil_scanRound hc, if_neg hx,
        hparams]
      omega

/-- SCAN_STEPs take off what is due, one each. -/
theorem ScanReady.roundsDue_scanRounds (answers : List (Option Message)) (hs : ScanReady s)
    (hc : s.isCandidate c = true) :
    ScanReady (s.scanRounds answers) ∧ (s.scanRounds answers).isCandidate c = true ∧
      (s.scanRounds answers).roundsDue c ≤ s.roundsDue c - answers.length := by
  induction answers generalizing s with
  | nil => exact ⟨hs, hc, le_rfl⟩
  | cons a rest ih =>
    obtain ⟨hready, hparams, hnode, -⟩ := hs.scanRound a
    have hcand : (s.scanRound a).isCandidate c = true := by
      rwa [State.isCandidate, hparams, hnode]
    obtain ⟨hready', hcand', hdue⟩ := ih hready hcand
    have hone := hs.roundsDue_scanRound hc a
    rw [List.length_cons]
    exact ⟨hready', hcand', by simp only [State.scanRounds]; omega⟩

/-- A candidate for which no SCAN_STEP is due is Found or Absent. -/
theorem ScanReady.isResolved_of_roundsDue (hs : ScanReady s) (hc : s.isCandidate c = true)
    (h : s.roundsDue c = 0) : s.isResolved c = true := by
  obtain ⟨hc, -⟩ := (isCandidate_iff s c).1 hc
  have hpos : c.toNat - s.params.scanFirst.toNat < s.slaveIndex.length := by
    rw [hs.tablesOk.indexLength, Params.rangeSize]
    rw [inCandidateRange_iff] at hc
    omega
  have hentry : s.indexOf c = some s.slaveIndex[c.toNat - s.params.scanFirst.toNat] :=
    (indexOf_of_inRange hc).trans (List.getElem?_eq_getElem hpos)
  unfold State.isResolved
  rw [hentry]
  cases he : s.slaveIndex[c.toNat - s.params.scanFirst.toNat] with
  | found | absent => rfl
  | unresolved m =>
    rw [he] at hentry
    rw [roundsDue_of_unresolved hentry] at h
    omega

end

/-- Settles O60: K * SCAN_RETRY_LIMIT bounds what is due at first, and every SCAN_STEP takes one off it. -/
theorem discoveryTerminates : Obligations.DiscoveryTerminates := by
  intro s answers hs _ hlen c hc
  have hdue := hs.scanReady.roundsDue_le hc
  obtain ⟨hready, hcand, hleft⟩ := hs.scanReady.roundsDue_scanRounds answers hc
  exact hready.isResolved_of_roundsDue hcand (by omega)

end Sys2Proof.Machine

namespace Sys2Proof.Machine

/-! ## What the probe relies on (43_discovery.md R193) -/

/-- What ProbeInv asks of a state in which the running command is at this point. -/
def ProbeReady (s : State) : Point → Prop
  | .probeSend c _ f => s.isMaster = true ∧ f = s.requestFrame c tosPing 0 0 Message.zero
  | .probeWait c _ => s.isMaster = true ∧ s.pending.valid = true ∧ s.pending.slaveId = c
  | .probeResend c _ _ => s.isMaster = true ∧ s.pending.valid = true ∧ s.pending.slaveId = c
  | _ => True

theorem probeInv_iff (s : State) : ProbeInv s ↔ ∀ p, s.run = some p → ProbeReady s p := by
  refine ⟨fun ⟨hrole, hpending, hrequest⟩ p hr => ?_, fun h => ⟨fun p c n hr hp => ?_,
    fun p c n hr hp hw => ?_, fun c n f hr => (h _ hr).2⟩⟩
  · cases p with
    | probeSend c n f => exact ⟨hrole _ c n hr rfl, hrequest c n f hr⟩
    | probeWait c n | probeResend c n => exact ⟨hrole _ c n hr rfl, hpending _ c n hr rfl rfl⟩
    | _ => trivial
  · have hready := h p hr
    cases p <;> cases hp <;> exact hready.1
  · have hready := h p hr
    cases p <;> cases hp <;> cases hw <;> exact hready.2

theorem BackToDrain.probeReady {p : Point} (h : BackToDrain p) (s : State) : ProbeReady s p := by
  obtain rfl | ⟨f, rfl, -⟩ := h <;> trivial

/-- A probe begins on a master, its `Transmit` makes PENDING its own, and until it ends no command runs that
could write the node identity or PENDING. -/
theorem ProbeInv.effect {s t : State} {o : Option Instr} (hs : ProbeInv s) (h : Effect s o t) :
    ProbeInv t := by
  rw [probeInv_iff] at hs ⊢
  intro p hr
  cases h
  case holds | probePolls | returnsNop => exact hs p hr
  case scans hm _ _ _ =>
    cases hr
    exact ⟨hm, rfl, rfl⟩
  case scanHolds hm _ hf _ =>
    cases hr
    exact ⟨hm, hf⟩
  case probeSent hsend _ =>
    cases hr
    obtain ⟨hm, -⟩ := hs _ hsend
    exact ⟨hm, rfl, rfl⟩
  case probeResends hwait _ _ | probeResent hwait _ =>
    cases hr
    exact hs _ hwait
  case replies hb | locks hb | unlocks hb | returns hb =>
    cases hr
    exact hb.probeReady _
  all_goals cases hr <;> trivial

/-- Settles O47: by what each effect leaves of the probe's point, role and PENDING. -/
theorem probeInvKept : Obligations.ProbeInvKept := fun _ _ =>
  next_keeps (fun _ _ _ _ _ _ _ ⟨hrole, hpending, hrequest⟩ => ⟨hrole, hpending, hrequest⟩)
    fun _ _ _ => ProbeInv.effect

end Sys2Proof.Machine

namespace Sys2Proof.Machine

/-! ## SLAVE_INFO_GET (43_discovery.md R196) -/

theorem decodeCommand_of_slaveInfoGet {cmd : BitVec 64} (h : cmdOp cmd = 8) (data : BitVec 64) :
    decodeCommand cmd data = .slaveInfoGet (cmdNode cmd) := by
  simp [decodeCommand, h]

section
variable {s : State} {slave : BitVec 7} (hr : s.run = none)
include hr

theorem exec_slaveInfoGet_of_unconfigured (hc : s.configured = false) :
    exec (.slaveInfoGet slave) s = .next (s.returned (statusResult .notConfigured)) := by
  rw [exec, execSlaveInfoGet, issue_of_idle hr, if_pos hc]
  rfl

theorem exec_slaveInfoGet_of_slave (hc : s.configured = true) (hm : s.nodeId.extractLsb' 0 4 ≠ 0) :
    exec (.slaveInfoGet slave) s = .next (s.returned (statusResult .notMaster)) := by
  have hslave : isMasterId s.nodeId = false := beq_eq_false_iff_ne.2 hm
  rw [exec, execSlaveInfoGet, issue_of_idle hr, if_neg (by simp [hc]), if_pos hslave]
  rfl

theorem exec_slaveInfoGet_of_outOfRange (hm : s.isMaster = true)
    (hrange : inCandidateRange s.params slave = false) :
    exec (.slaveInfoGet slave) s = .next (s.returned (statusResult .outOfRange)) := by
  obtain ⟨hc, hid⟩ := Bool.and_eq_true_iff.1 hm
  rw [exec, execSlaveInfoGet, issue_of_idle hr, if_neg (by simp [hc]), if_neg (by simp [hid]),
    if_pos hrange]
  rfl

/-- On a master, for a candidate ID, the entry of SLAVE_INDEX decides. -/
theorem exec_slaveInfoGet_of_inRange (hm : s.isMaster = true)
    (hrange : inCandidateRange s.params slave = true) {e : IndexEntry} (he : s.indexOf slave = some e) :
    ((∀ i, e ≠ .found i) →
      exec (.slaveInfoGet slave) s = .next (s.returned (statusResult .notFound))) ∧
    (∀ i r, e = .found i → s.slaveRecord[i]? = some r →
      exec (.slaveInfoGet slave) s = .next (s.returned ⟨.success, 0, 0, 0, r.pong⟩)) := by
  obtain ⟨hc, hid⟩ := Bool.and_eq_true_iff.1 hm
  rw [exec, execSlaveInfoGet, issue_of_idle hr, if_neg (by simp [hc]), if_neg (by simp [hid]),
    if_neg (by simp [hrange]), he]
  refine ⟨fun hne => ?_, ?_⟩
  · cases e with
    | found i => exact absurd rfl (hne i)
    | unresolved | absent => rfl
  · rintro i r rfl hrec
    simp only [hrec]
    rfl

end

/-- Settles O29: by the checks in their order, and for a candidate ID by its entry. -/
theorem slaveInfoGetResult : Obligations.SlaveInfoGetResult := by
  refine ⟨fun cmd data hop => congrArg Except.ok (decodeCommand_of_slaveInfoGet hop data),
    fun s slave hr => ⟨exec_slaveInfoGet_of_unconfigured hr, exec_slaveInfoGet_of_slave hr,
      fun hc hid hout => ?_, fun hc hid hfirst hlast => ?_⟩⟩
  · refine exec_slaveInfoGet_of_outOfRange hr ((isMaster_iff s).2 ⟨hc, hid⟩) (Bool.eq_false_iff.2 ?_)
    rw [Ne, inCandidateRange_iff]
    omega
  · have hm := (isMaster_iff s).2 ⟨hc, hid⟩
    have hrange := (inCandidateRange_iff s.params slave).2 ⟨hfirst, hlast⟩
    rw [← indexOf_of_inRange hrange]
    exact ⟨fun e he => (exec_slaveInfoGet_of_inRange hr hm hrange he).1,
      fun i r he => (exec_slaveInfoGet_of_inRange hr hm hrange he).2 i r rfl⟩

end Sys2Proof.Machine

namespace Sys2Proof.Machine

/-! ## HANDLER's scanner step (43_discovery.md R191 to R193; 44_dispatcher.md R220) -/

section
variable {s : State} {c : BitVec 7} {m n k : Nat}

/-! ### The drain after it -/

theorem startDrain_of_empty (h : s.rq = []) :
    s.startDrain = { s with locked := none }.returned (statusResult .success) := by
  simp only [State.startDrain, State.resume, h, if_true]
  rfl

theorem startDrain_of_ne (h : s.rq ≠ []) :
    s.startDrain = { s with locked := none, run := some .drain } := by
  simp only [State.startDrain, State.resume, h, if_false]
  rfl

/-! ### The ping -/

/-- The probe's ping handed over in slot `k`: PENDING is the ping, and the probe waits with the whole budget
(R193). -/
theorem resume_probeSend_of_lowestFree (h : LowestFree s.tx k) (c : BitVec 7) (n : Nat) (f : Frame) :
    s.resume (.probeSend c n f) = { s.handed k f with
      pending := ⟨true, c, f.id, f.data, f.dlc⟩
      budget := some s.params.ackPollBudget
      run := some (.probeWait c n) } :=
  attempt_of_lowestFree h f _ _

/-- The probe's request is a ping without data (R193). -/
theorem requestFrame_ping (s : State) (c : BitVec 7) :
    s.requestFrame c tosPing 0 0 Message.zero = requestOf s.nodeId c 3 0 0 Message.zero := rfl

/-! ### The command -/

theorem exec_handler_of_idle (hr : s.run = none) (ho : s.outer = none) :
    exec .handler s = .next s.startHandler := by
  rw [exec, execHandler, issue_of_idle hr, ho]
  rfl

theorem startHandler_of_probe (hm : s.isMaster = true) (hp : s.scanProbe = some (c, n)) :
    s.startHandler =
      s.advanceCursor.resume (.probeSend c n (requestOf s.nodeId c 3 0 0 Message.zero)) := by
  simp only [State.startHandler, hm, hp, if_true, requestFrame_ping]

theorem startHandler_of_no_probe (hm : s.isMaster = true) (hp : s.scanProbe = none) :
    s.startHandler = s.advanceCursor.startDrain := by
  simp only [State.startHandler, hm, hp, if_true]

theorem scanProbe_of_resolved (h : s.scanCandidate = s.nodeId ∨
    s.indexOf s.scanCandidate = some .absent ∨ ∃ i, s.indexOf s.scanCandidate = some (.found i)) :
    s.scanProbe = none := by
  obtain h | h | ⟨i, h⟩ := h <;> simp [State.scanProbe, h]

end

/-- Settles O32: by whether the candidate is probed, and then by RQ or by the free slots. -/
theorem handlerScans : Obligations.HandlerScans := by
  intro s c hr ho hc hid hexamined
  obtain rfl : c = s.scanCandidate := hexamined
  have hm := (isMaster_iff s).2 ⟨hc, hid⟩
  rw [exec_handler_of_idle hr ho]
  refine ⟨fun hresolved => ?_, fun m hne hentry => ?_⟩
  · rw [startHandler_of_no_probe hm (scanProbe_of_resolved hresolved)]
    refine ⟨fun hq => ?_, fun hq => ?_⟩
    · rw [startDrain_of_empty (by exact hq)]
      rfl
    · rw [startDrain_of_ne (by exact hq)]
      rfl
  · rw [startHandler_of_probe hm (scanProbe_of_unresolved hne hentry)]
    refine ⟨fun k hk => ?_, fun hfull => ?_⟩
    · rw [resume_probeSend_of_lowestFree (by exact hk)]
      rfl
    · rw [resume_of_full rfl (by exact hfull)]
      rfl

end Sys2Proof.Machine

namespace Sys2Proof.Machine

/-! ## Runs of HANDLER's probe with the BUS silent (43_discovery.md R192 to R195) -/

/-- `t` is `s` after its ping of `c`: the cursor is past `c`, and the probe is at its first poll. -/
structure Pinged (s t : State) (c : BitVec 7) (n : Nat) : Prop where
  silent : Silent t
  run : t.run = some (.probeWait c n)
  budget : t.budget = some s.params.ackPollBudget
  aq : t.aq = s.aq
  params : t.params = s.params
  tables : SameTables t s.advanceCursor
  txRecord : t.txRecord = s.txRecord ++ [requestOf s.nodeId c 3 0 0 Message.zero]

section
variable {s t : State} {c : BitVec 7} {n k b : Nat} {f : Frame} {q : List Frame} {rest : List BusAction}

/-! ### The steps -/

/-- The step that issues HANDLER hands the ping over (log 2). -/
theorem next_of_issued_handler {cmd data : BitVec 64} {more : List HostAction} (hs : Silent s)
    (hr : s.run = none) (ho : s.outer = none) (hh : s.host = .command cmd data :: more)
    (hd : decode (.command cmd data) = .ok .handler) (hm : s.isMaster = true)
    (hp : s.scanProbe = some (c, n)) (hk : LowestFree s.tx k) : ∃ t, Next s t ∧ Pinged s t c n := by
  have hstep := step_of_fetched hs.quiet (fetch_of_idle (by exact hr) (by exact hh)) hd
  rw [exec_handler_of_idle (by exact hr) (by exact ho), startHandler_of_probe (by exact hm) (by exact hp),
    resume_probeSend_of_lowestFree (by exact hk)] at hstep
  exact ⟨_, hstep, ⟨rfl, hs.2⟩, rfl, rfl, rfl, rfl, ⟨rfl, rfl, rfl⟩, txRecord_of_transmit rfl⟩

/-- The probe's poll takes the acknowledge at the head of AQ. -/
theorem step_of_probeWait_accepted (hb : Quiet s rest) (hr : s.run = some (.probeWait c n))
    (hq : s.aq = f :: q) (hf : IsAccepted 1 f) : step s =
      .next (State.probeWith c n ({ s with bus := rest, aq := q }.receiveAck c f)) := by
  obtain ⟨hide, hrtr, ha, -⟩ := hf
  obtain ⟨i, hd⟩ := exists_decode_frame hide hrtr
  rw [step_of_fetched hb (fetch_of_probeWait hr hq) hd, exec_of_decode_ack hd ha]
  exact takeAck_of_probeWait (s := { s with bus := rest, aq := q }) hr f

/-- A poll that hears nothing and is not the last uses up one of the polls left. -/
theorem next_of_probe_pending (hs : Silent s) (hr : s.run = some (.probeWait c n)) (hq : s.aq = [])
    (hb : s.budget = some b) (hpos : 1 < b) : Next s { s with budget := some (b - 1) } := by
  rw [Next, step_of_empty_aq hs.quiet hr rfl hq, hs.with_bus, State.resume, pollAck_of_empty hq,
    probeWith_of_pending hr hb hpos]

/-- The last poll fails the probe when it hears nothing. -/
theorem next_of_probe_last (hs : Silent s) (hr : s.run = some (.probeWait c n)) (hq : s.aq = [])
    (hb : s.budget = some 1) : Next s ({ s with budget := none }.probeFailed c n).beginDrain := by
  rw [Next, step_of_empty_aq hs.quiet hr rfl hq, hs.with_bus, State.resume, pollAck_of_empty hq,
    probeWith_of_last_pending hb, probeFailed_eq]
  rfl

/-- An answer of the candidate is recorded. -/
theorem next_of_probe_answer (hs : Silent s) (hr : s.run = some (.probeWait c n)) (hq : s.aq = f :: q)
    (hf : IsAccepted 1 f) (hfrom : IsFrom c (unpack f.id).control) (htos : (unpack f.id).tos ≠ 2) :
    Next s ({ s with bus := [], aq := q, budget := none }.allocate c f.data).beginDrain := by
  rw [Next, step_of_probeWait_accepted hs.quiet hr hq hf, receiveAck_of_tos_ne_retry hfrom htos,
    probeWith_of_success rfl]
  obtain ⟨-, -, -, hdata⟩ := hf
  simp only [Result.ofAck, receivedPayload_of_ok hdata]

/-- With no acknowledge the probe fails at the last poll it has left. -/
theorem run_probe_fails (hs : Silent s) (hr : s.run = some (.probeWait c n)) (hq : s.aq = [])
    (hb : s.budget = some b) (hpos : 1 ≤ b) : Host.Core.run Sys2Proof.core b s =
      .next ({ s with budget := none }.probeFailed c n).beginDrain := by
  induction b, hpos using Nat.le_induction generalizing s with
  | base => exact run_of_next (next_of_probe_last hs hr hq hb) 0
  | succ b hpos ih =>
    rw [run_of_next (next_of_probe_pending hs hr hq hb (by omega))]
    exact ih (s := { s with budget := some b }) hs hr hq rfl

/-! ### What the end of the probe leaves -/

theorem sameTables_probeFailed (h : SameTables s t) (hp : s.params = t.params) (c : BitVec 7) (n : Nat) :
    SameTables (s.probeFailed c n) (t.probeFailed c n) := by
  obtain ⟨hindex, hrecord, hcursor⟩ := h
  simp [SameTables, State.probeFailed, State.setIndex, hp, hindex, hrecord, hcursor]

/-- ALLOCATE writes the tables alone, and reads nothing else but the parameters. -/
theorem sameTables_allocate (h : SameTables s t) (hp : s.params = t.params) (c : BitVec 7)
    (pong : Message) : SameTables (s.allocate c pong) (t.allocate c pong) ∧
      (s.allocate c pong).record = s.record := by
  obtain ⟨hindex, hrecord, hcursor⟩ := h
  unfold State.allocate
  rw [hrecord]
  split <;> simp [SameTables, State.setIndex, hp, hindex, hrecord, hcursor]

theorem scanRound_of_probe (hp : s.scanProbe = some (c, n)) :
    s.scanRound none = s.advanceCursor.probeFailed c n ∧
    ∀ pong, s.scanRound (some pong) = s.advanceCursor.allocate c pong := by
  simp [State.scanRound, hp]

end

/-- Settles O59: the first step hands the ping over; from there the probe uses up its polls, or takes the
answer at the first one. -/
theorem handlerCarriesOutScanRound : Obligations.HandlerCarriesOutScanRound := by
  intro s cmd data more c n k hbus hcycle hr ho hh hd hm hp hk hbudget
  obtain ⟨t, hnext, ht⟩ := next_of_issued_handler ⟨hbus, hcycle⟩ hr ho hh hd hm hp hk
  obtain ⟨hfails, hfound⟩ := scanRound_of_probe hp
  refine ⟨fun hq => ?_, fun f q hq hf hfrom htos => ?_⟩
  · rw [run_of_next hnext, run_probe_fails ht.silent ht.run (ht.aq.trans hq) ht.budget hbudget, hfails]
    exact ⟨_, rfl, rfl, sameTables_probeFailed (s := { t with budget := none }) ht.tables ht.params c n,
      ht.txRecord⟩
  · have hanswer := next_of_probe_answer ht.silent ht.run (ht.aq.trans hq) hf hfrom htos
    obtain ⟨htables, hrecord⟩ := sameTables_allocate
      (s := { t with bus := [], aq := q, budget := none }) ht.tables ht.params c f.data
    rw [run_of_next hnext, run_of_next hanswer, hfound]
    exact ⟨_, rfl, rfl, htables, (txRecord_of_logged (.inl hrecord)).trans ht.txRecord⟩

end Sys2Proof.Machine

namespace Sys2Proof.Machine

/-! ## Calls while locked (44_dispatcher.md R222, R246) -/

section
variable {s t : State} {o : Option Instr} {m : BitVec 3}

/-! ### What enters the call record (10_state.md R32) -/

theorem callRecord_of_logged (h : Logged s t.record) : t.callRecord = s.callRecord := by
  obtain e | ⟨f, e⟩ := h <;> simp [State.callRecord, e]

theorem callRecord_of_transmit {f : Frame} (h : t.record = s.record ++ [.transmit f]) :
    t.callRecord = s.callRecord := by
  simp [State.callRecord, h]

@[simp] theorem finish_callRecord (s : State) (r : Result) : (s.finish r).callRecord = s.callRecord := by
  simp [State.callRecord]

@[simp] theorem enterCall_callRecord (s : State) (ev : CallEvent) (back : Option (BitVec 7)) :
    (s.enterCall ev back).callRecord = s.callRecord ++ [ev] := by
  simp [State.callRecord]

/-- A step of the CORE or the HOST passes no event to `Call`, or one of a master that the lock lets through
(44_dispatcher.md R221, R222). -/
theorem Effect.callRecord (h : Effect s o t) : t.callRecord = s.callRecord ∨
    ∃ ev ms, (∀ m, s.locked = some m → ms = m) ∧ eventMaster ev = masterOf ms ∧
      t.callRecord = s.callRecord ++ [ev] := by
  cases h
  case calls ms ev back _ hlock hmaster _ =>
    exact .inr ⟨ev, ms, hlock, hmaster, enterCall_callRecord ..⟩
  case polls hl | waitEnds hl _ => exact .inl ((finish_callRecord ..).trans (callRecord_of_logged hl))
  case waitPolls hl _ | waitResends hl _ | found hl _ | full hl _ | failed hl | probePolls hl _ _ |
      probeResends hl _ => exact .inl (callRecord_of_logged hl)
  case requests | again | sendReqSent | sentPlain =>
    exact .inl ((finish_callRecord ..).trans (callRecord_of_transmit rfl))
  case scans | waitSent | probeSent | probeResent | replySent => exact .inl (callRecord_of_transmit rfl)
  case ends | resets | renames | drainsEnd | drained => exact .inl (finish_callRecord ..)
  all_goals exact .inl rfl

/-! ### The calls of one master -/

/-- Between `s` and `t` every event passed to `Call` is that of the master of slot `m`. -/
def CallsOnly (m : BitVec 3) (s t : State) : Prop :=
  ∃ evs, t.callRecord = s.callRecord ++ evs ∧ ∀ ev ∈ evs, eventMaster ev = masterOf m

theorem callsOnly_of_same (h : t.callRecord = s.callRecord) : CallsOnly m s t :=
  ⟨[], by simpa using h, by simp⟩

theorem CallsOnly.trans {u : State} (hst : CallsOnly m s t) (htu : CallsOnly m t u) : CallsOnly m s u := by
  obtain ⟨evs, e, hevs⟩ := hst
  obtain ⟨evs', e', hevs'⟩ := htu
  exact ⟨evs ++ evs', by rw [e', e, List.append_assoc],
    fun ev hev => (List.mem_append.1 hev).elim (hevs ev) (hevs' ev)⟩

theorem callsOnly_of_effect (hl : s.locked = some m) (h : Effect s o t) : CallsOnly m s t := by
  obtain e | ⟨ev, ms, hlock, hmaster, e⟩ := h.callRecord
  · exact callsOnly_of_same e
  · obtain rfl := hlock m hl
    exact ⟨[ev], e, by simpa using hmaster⟩

/-- In a step from a state locked by the master of slot `m`, only that master's request reaches the HOST. -/
theorem callsOnly_of_next (hl : s.locked = some m) (h : Next s t) : CallsOnly m s t := by
  rcases next_inputs_or_effect h with ⟨rq, aq, tx, wire, bus, rfl⟩ | ⟨o, -, ⟨rq, aq, host, bus, rfl⟩, -, he⟩
  · exact callsOnly_of_same rfl
  · exact callsOnly_of_effect (s := { s with rq := rq, aq := aq, host := host, bus := bus }) hl he

end

/-- Settles O55, by induction on the run: each of its steps starts in a locked state. -/
theorem lockedCallsAreHolders : Obligations.LockedCallsAreHolders := by
  intro s t m _ hreach hlocked
  change CallsOnly m s t
  induction hreach with
  | refl => exact callsOnly_of_same rfl
  | @tail t u hst htu ih =>
    have hbefore : CallsOnly m s t := ih fun v hsv hvt => hlocked v hsv (hvt.tail htu)
    have hl : t.locked = some m := hlocked t hst (.tail .refl htu)
    exact hbefore.trans (callsOnly_of_next hl htu)

end Sys2Proof.Machine

namespace Sys2Proof.Machine

/-! ## What the model refuses (44_dispatcher.md R238; 60_exceptions.md R295) -/

section
variable {s : State} {r : Refusal}

theorem depth_eq_one_iff (s : State) : s.depth = 1 ↔ s.outer.isSome = true := by
  cases ho : s.outer <;> simp [State.depth, ho]

theorem issue_eq_refused_iff {k : State → Out} :
    s.issue k = .refused r ↔ s.run = none ∧ k s = .refused r := by
  cases hr : s.run <;> simp [State.issue, hr]

/-- A command whose meaning always has a next state is never refused. -/
theorem issue_next_ne_refused (k : State → State) : s.issue (fun u => .next (k u)) ≠ .refused r := by
  simp [issue_eq_refused_iff]

theorem arbitrate_ne_refused (ms : BitVec 3) (k : State → State) : s.arbitrate ms k ≠ .refused r := by
  unfold State.arbitrate
  split
  · split <;> simp
  · simp

theorem takeAck_ne_refused (f : Frame) : s.takeAck f ≠ .refused r := by
  unfold State.takeAck
  split <;> simp

theorem exec_handler_eq_refused_iff :
    exec .handler s = .refused r ↔ s.run = none ∧ s.depth = 1 ∧ r = .nestedHandler := by
  rw [exec, execHandler, issue_eq_refused_iff, depth_eq_one_iff]
  cases s.outer <;> simp [eq_comm]

theorem exec_init_eq_refused_iff :
    exec .init s = .refused r ↔ s.run = none ∧ s.depth = 1 ∧ r = .nestedInit := by
  rw [exec, execInit, issue_eq_refused_iff, depth_eq_one_iff]
  cases s.outer <;> simp [eq_comm]

/-- Every request row goes through the lock arbiter before anything else. -/
theorem exec_request {i : Instr} {ms : BitVec 3} (h : requestMs i = some ms) :
    ∃ k, ∀ s, exec i s = s.arbitrate ms k := by
  cases i <;> cases h <;> exact ⟨_, fun _ => rfl⟩

/-- Every command but HANDLER and INIT always has a next state when it is issued, and every frame goes
through the lock arbiter or to the poll that returned it. -/
theorem exec_cases {i : Instr} (hhandler : i ≠ .handler) (hinit : i ≠ .init) :
    (∃ k : State → State, ∀ s, exec i s = s.issue fun u => .next (k u)) ∨
    (∃ ms k, ∀ s, exec i s = s.arbitrate ms k) ∨ ∃ f, ∀ s, exec i s = s.takeAck f := by
  cases i
  case handler => exact absurd rfl hhandler
  case init => exact absurd rfl hinit
  case nodeidSet | nodeidGet | sendReq | sendReqAgain | waitAckNb | waitAck | sendAck | slaveInfoGet |
      reservedA | reservedB | reservedC | reservedD | reservedE | reservedF =>
    exact .inl ⟨_, fun _ => rfl⟩
  case ackOk | ackRead | ackRetry | ackError => exact .inr (.inr ⟨_, fun _ => rfl⟩)
  all_goals exact .inr (.inl ⟨_, exec_request rfl⟩)

theorem exec_ne_refused {i : Instr} (hhandler : i ≠ .handler) (hinit : i ≠ .init) :
    exec i s ≠ .refused r := by
  obtain ⟨k, hk⟩ | ⟨ms, k, hk⟩ | ⟨f, hf⟩ := exec_cases hhandler hinit
  · exact hk s ▸ issue_next_ne_refused k
  · exact hk s ▸ arbitrate_ne_refused ms k
  · exact hf s ▸ takeAck_ne_refused f

end

/-- Settles O41: HANDLER, INIT, and everything else. -/
theorem onlyNestedRefused : Obligations.OnlyNestedRefused := by
  intro i s r
  by_cases hhandler : i = .handler
  · subst hhandler
    simp [exec_handler_eq_refused_iff]
  · by_cases hinit : i = .init
    · subst hinit
      simp [exec_init_eq_refused_iff]
    · simp [exec_ne_refused hhandler hinit, hhandler, hinit]

end Sys2Proof.Machine

namespace Sys2Proof.Machine

/-! ## HANDLER without a scan, and its drain of an empty RQ (44_dispatcher.md R220, R221, R238) -/

theorem decodeCommand_of_handler {cmd : BitVec 64} (h : cmdOp cmd = 9) (data : BitVec 64) :
    decodeCommand cmd data = .handler := by
  simp [decodeCommand, h]

theorem startHandler_of_not_master {s : State} (h : s.isMaster = false) : s.startHandler = s.startDrain := by
  simp [State.startHandler, h]

/-- Settles O31: under a `Call`, and by RQ where HANDLER begins at the drain. -/
theorem handlerWithoutScan : Obligations.HandlerWithoutScan := by
  refine ⟨fun cmd data hop => congrArg Except.ok (decodeCommand_of_handler hop data), fun s hr =>
    ⟨fun c ho => ?_, fun ho hrole => ?_⟩⟩
  · exact exec_handler_eq_refused_iff.2 ⟨hr, (depth_eq_one_iff s).2 (by simp [ho]), rfl⟩
  · have hm : s.isMaster = false := by
      rw [Bool.eq_false_iff, Ne, isMaster_iff]
      rintro ⟨hc, hid⟩
      exact hrole.elim (by simp [hc]) (absurd hid)
    rw [exec_handler_of_idle hr ho, startHandler_of_not_master hm]
    exact ⟨fun hq => congrArg _ (startDrain_of_empty hq), fun hq => congrArg _ (startDrain_of_ne hq)⟩

theorem step_of_empty_rq {s : State} {rest : List BusAction} (hq : Quiet s rest) (hr : s.run = some .drain)
    (hrq : s.rq = []) : step s = .next { s with bus := rest }.drainEmpty := by
  rw [step_of_unfetched hq (fetch_with_bus (fetch_of_empty_rq hr hrq) rest), State.proceed, hr]
  exact congrArg _ (if_pos hrq)

theorem drainEmpty_of_unlocked {s : State} (h : s.locked = none) :
    s.drainEmpty = s.returned (statusResult .success) := by
  rw [State.drainEmpty, h]
  rfl

theorem drainEmpty_of_locked {s : State} {m : BitVec 3} (hr : s.run = some .drain) (h : s.locked = some m) :
    s.drainEmpty = s := by
  rw [State.drainEmpty, h]
  exact stopAt_of_run hr

/-- Settles O33: with nothing to fetch, the drain ends or holds. -/
theorem drainOnEmptyQueue : Obligations.DrainOnEmptyQueue := by
  intro s rest hq hr hrq
  rw [step_of_empty_rq hq hr hrq]
  exact ⟨fun hl => congrArg _ (drainEmpty_of_unlocked hl), fun m hl => congrArg _ (drainEmpty_of_locked hr hl)⟩

end Sys2Proof.Machine

namespace Sys2Proof.Machine

/-! ## The dispatched requests (44_dispatcher.md R222 to R245) -/

section
variable {s : State} {rest : List BusAction}

/-! ### REPLY (R244) -/

/-- The sender of a request is a master, so only an unconfigured node sends it no reply. -/
theorem enterReply_masterOf (s : State) (ms : BitVec 3) (tos : BitVec 2) :
    s.enterReply (masterOf ms) tos = s.replying ms tos := by
  rcases enterReply_cases s (masterOf ms) tos with ⟨hc, -, e⟩ | ⟨hc | hm, e⟩
  · rw [e]
    exact congrArg s.stopAt (if_pos hc).symm
  · rw [e]
    exact congrArg s.stopAt (if_neg (by simp [hc])).symm
  · simp at hm

theorem replyLeaves (ms : BitVec 3) (tos : BitVec 2) : ReplyLeaves ms tos := by
  intro nodeId u rest hq hr
  obtain ⟨hold, sent⟩ := transmitStep u rest _ _ hq hr rfl
  refine ⟨hold, fun n hn => ?_⟩
  obtain ⟨-, -, -, -, -, -, hreply⟩ := sent n hn
  exact hreply rfl

/-! ### The HOST's return (60_exceptions.md R287) -/

theorem step_of_ret {v : Int} {more : List HostAction} (hq : Quiet s rest) (hr : s.run = none)
    (hh : s.host = .ret v :: more) : step s = .next { s with bus := rest, host := more }.returnFromCall := by
  have hf : { s with bus := rest }.fetch = none := by simp [State.fetch, hr, hh]
  rw [step_of_unfetched hq hf]
  simp [State.proceed, hr, hh]

theorem repliesOkAfter (ev : CallEvent) (ms : BitVec 3) : RepliesOkAfter ev ms := by
  intro u rest v more hq hr ho hh
  rw [step_of_ret hq hr hh, State.returnFromCall]
  simp only [ho]
  exact congrArg _ (enterReply_masterOf _ ms tosOk)

theorem sendsNothingAfter (ev : CallEvent) : SendsNothingAfter ev := by
  intro u rest v more hq hr ho hh
  rw [step_of_ret hq hr hh, State.returnFromCall]
  simp only [ho]
  rfl

/-! ### The rows that the arbiter lets through (R221) -/

theorem arbitrate_of_admits {ms : BitVec 3} (h : Admits s ms) (k : State → State) :
    s.arbitrate ms k = .next (k s) := by
  obtain ⟨hr, hl⟩ := h
  exact arbitrate_pass k hr fun m hm => by grind

theorem rejectEtos_of_admits {q : EtosOps} (h : Admits s q.ms) :
    s.rejectEtos q = .next (s.replying q.ms 3) := by
  rw [State.rejectEtos, arbitrate_of_admits h, enterReply_masterOf]
  rfl

theorem forward_of_admits {q : FrameOps} (h : Admits s q.ms) (tos : BitVec 2) :
    s.forward q tos = .next (s.calling (.callback (q.ms.setWidth 7 <<< 4) tos q.control
      (q.data.keep (min q.dlc.toNat 8)) q.dlc) none) := by
  rw [State.forward, arbitrate_of_admits h]
  rfl

section
variable {q : EtosOps} (h : Admits s q.ms) (kind : HookKind) {len : Nat}
include h

theorem notifyHook_of_length (hlen : q.dlc.toNat = len) :
    s.notifyHook q kind len = .next (s.calling
      (.hook kind (q.ms.setWidth 7 <<< 4) (q.data.keep (min q.dlc.toNat 8)) q.dlc)
      (some (q.ms.setWidth 7 <<< 4))) := by
  rw [State.notifyHook, arbitrate_of_admits h, if_pos hlen]
  rfl

theorem notifyHook_of_ne_length (hlen : q.dlc.toNat ≠ len) :
    s.notifyHook q kind len = .next (s.replying q.ms 3) := by
  rw [State.notifyHook, arbitrate_of_admits h, if_neg hlen, enterReply_masterOf]
  rfl

end

/-! ### The rows that the arbiter rejects (R222) -/

theorem exec_of_locked_out {i : Instr} {ms m : BitVec 3} (h : requestMs i = some ms)
    (hr : s.run = some .drain) (hl : s.locked = some m) (hm : ms ≠ m) :
    exec i s = .next (s.replying ms 2) := by
  obtain ⟨k, hk⟩ := exec_request h
  rw [hk, arbitrate_reject k hr hl hm, enterReply_masterOf]
  rfl

end

/-! ### The statements -/

/-- Settles O35: Lock and Unlock as the arbiter lets them through. -/
theorem lockAndUnlock : Obligations.LockAndUnlock := by
  intro s q h
  refine ⟨?_, ?_, replyLeaves _ _, rfl, rfl⟩
  · rw [exec, execEtosLock, arbitrate_of_admits h, enterReply_masterOf]
    rfl
  · rw [exec, execEtosUnlock, arbitrate_of_admits h, enterReply_masterOf]
    rfl

/-- Settles O36: the eight rows have one meaning. -/
theorem rejectedEtos : Obligations.RejectedEtos := by
  intro s q h
  refine ⟨replyLeaves _ _, fun x hx => ?_⟩
  suffices hmeaning : exec x.1 s = s.rejectEtos q ∧ x.1.row = .frame x.2 0x001FF801 by
    obtain ⟨hexec, hrow⟩ := hmeaning
    rw [hexec]
    exact ⟨rejectEtos_of_admits h, hrow⟩
  simp only [List.mem_cons, List.not_mem_nil, or_false] at hx
  obtain rfl | rfl | rfl | rfl | rfl | rfl | rfl | rfl := hx <;> exact ⟨rfl, rfl⟩

/-- Settles O37: the hook's Call, the HOST's return and the reply. -/
theorem initHookRequest : Obligations.InitHookRequest := by
  intro s q h
  refine ⟨?_, repliesOkAfter _ _, replyLeaves _ _, rfl⟩
  rw [exec, execEtosInitHook, arbitrate_of_admits h]
  rfl

/-- Settles O38: the five rows have one meaning, by whether the `dlc` is the row's length. -/
theorem fixedLengthEtos : Obligations.FixedLengthEtos := by
  intro s q h
  refine ⟨replyLeaves _ _, replyLeaves _ _, fun x hx => ?_⟩
  suffices hmeaning : exec x.1 s = s.notifyHook q x.2.1 x.2.2.1 ∧ x.1.row = .frame x.2.2.2 0x001FF801 by
    obtain ⟨hexec, hrow⟩ := hmeaning
    rw [hexec]
    exact ⟨notifyHook_of_length h _, repliesOkAfter _ _, notifyHook_of_ne_length h _, hrow⟩
  simp only [List.mem_cons, List.not_mem_nil, or_false] at hx
  obtain rfl | rfl | rfl | rfl | rfl := hx <;> exact ⟨rfl, rfl⟩

/-- Settles O39: the seven rows have one meaning. -/
theorem forwardedRequests : Obligations.ForwardedRequests := by
  intro s q h x hx
  suffices hmeaning : exec x.1 s = s.forward q x.2.1 ∧ x.1.row = .frame x.2.2.1 x.2.2.2 by
    obtain ⟨hexec, hrow⟩ := hmeaning
    rw [hexec]
    exact ⟨forward_of_admits h _, sendsNothingAfter _, hrow⟩
  simp only [List.mem_cons, List.not_mem_nil, or_false] at hx
  obtain rfl | rfl | rfl | rfl | rfl | rfl | rfl := hx <;> exact ⟨rfl, rfl⟩

/-- Settles O40: every row by the arbiter, and the rule's example as a case of it. -/
theorem lockedOutRequests : Obligations.LockedOutRequests := by
  refine ⟨fun s i ms m hms hr hl hm => ⟨exec_of_locked_out hms hr hl hm, replyLeaves ms 2⟩,
    fun s q hr hl hc hid hms => ?_⟩
  have hm : q.ms ≠ 2 := by simp [hms]
  rw [exec_of_locked_out (i := .ramRead q) rfl hr hl hm, State.replying, if_pos hc, hid, hms]
  rfl

end Sys2Proof.Machine

namespace Sys2Proof.Machine

/-! ## SEND_ACK (45_ack_responder.md R270) -/

section
variable {s : State} {master : BitVec 7} {tos : BitVec 2} {dlc : BitVec 4} {msg : Message} {f : Frame}

/-! ### The checks in their order -/

theorem sendAckFrame_of_unconfigured (hc : s.configured = false) :
    s.sendAckFrame master tos dlc msg = .error .notConfigured :=
  if_pos hc

theorem sendAckFrame_of_not_master (hc : s.configured = true) (hm : master.extractLsb' 0 4 ≠ 0) :
    s.sendAckFrame master tos dlc msg = .error .invalidTarget := by
  have hslave : isMasterId master = false := beq_eq_false_iff_ne.2 hm
  simp [State.sendAckFrame, hc, hslave]

section
variable (hc : s.configured = true) (hm : master.extractLsb' 0 4 = 0)
include hc hm

theorem sendAckFrame_of_long (hd : 8 < dlc.toNat) :
    s.sendAckFrame master tos dlc msg = .error .invalidLength := by
  simp [State.sendAckFrame, isMasterId, hc, hm, hd]

theorem sendAckFrame_of_le (hd : dlc.toNat ≤ 8) :
    s.sendAckFrame master tos dlc msg = .ok (acknowledgeOf s.nodeId master tos dlc msg) := by
  have hok : s.sendAckFrame master tos dlc msg = .ok (buildFrame (s.ackId master tos) msg dlc) := by
    simp [State.sendAckFrame, isMasterId, hc, hm, Nat.not_lt.2 hd]
  exact hok

end

/-! ### The command at its `Transmit` -/

/-- SEND_ACK with its frame handed over in slot `k`. -/
theorem resume_sendAck_of_lowestFree {k : Nat} (h : LowestFree s.tx k) (f : Frame) :
    s.resume (.sendAck f) = (s.handed k f).returned (statusResult .success) :=
  attempt_of_lowestFree h f _ _

theorem transmitThen_sendAck (f : Frame) : TransmitThen (.sendAck f) f
    fun v => v.returned (statusResult .success) := by
  intro u rest hq hr
  obtain ⟨hold, sent⟩ := transmitStep u rest _ f hq hr rfl
  refine ⟨hold, fun n hn => ?_⟩
  obtain ⟨-, -, hack, -⟩ := sent n hn
  exact hack rfl

/-! ### The command -/

section
variable (hr : s.run = none)
include hr

theorem exec_sendAck_of_error {e : Status} (h : s.sendAckFrame master tos dlc msg = .error e) :
    exec (.sendAck master tos dlc msg) s = .next (s.returned (statusResult e)) := by
  rw [exec, execSendAck, issue_of_idle hr, h]
  rfl

theorem exec_sendAck_of_ok (h : s.sendAckFrame master tos dlc msg = .ok f) :
    exec (.sendAck master tos dlc msg) s = .next (s.resume (.sendAck f)) := by
  rw [exec, execSendAck, issue_of_idle hr, h]

end

end

/-! ### The statement -/

/-- Settles O28: by its checks in order, and then by whether a slot is free. -/
theorem sendAckResult : Obligations.SendAckResult := by
  refine ⟨fun cmd data hop => congrArg Except.ok (decodeCommand_of_sendAck hop data),
    fun s master tos dlc msg hr => ⟨?_, ?_, ?_, ?_⟩⟩
  · exact fun hc => exec_sendAck_of_error hr (sendAckFrame_of_unconfigured hc)
  · exact fun hc hm => exec_sendAck_of_error hr (sendAckFrame_of_not_master hc hm)
  · exact fun hc hm hd => exec_sendAck_of_error hr (sendAckFrame_of_long hc hm hd)
  · intro hc hm hd
    rw [exec_sendAck_of_ok hr (sendAckFrame_of_le hc hm hd)]
    exact ⟨fun k hk => congrArg _ (resume_sendAck_of_lowestFree hk _),
      fun hfull => congrArg _ (resume_of_full rfl hfull), transmitThen_sendAck _⟩

end Sys2Proof.Machine

namespace Sys2Proof.Machine

/-! ## No faults while the queues hold accepted frames (60_exceptions.md R280; 40_codec.md R104) -/

section
variable {s u : State} {r : Fault}

/-! ### Where the meaning of an instruction raises no fault -/

/-- A command that is issued always has a next state, but HANDLER and INIT may be refused. -/
theorem exec_command {i : Instr} {op : BitVec 4} (h : i.row = .command op) :
    i = .handler ∨ i = .init ∨ ∃ k : State → State, ∀ s, exec i s = s.issue fun u => .next (k u) := by
  cases i
  case handler => exact .inl rfl
  case init => exact .inr (.inl rfl)
  case nodeidSet | nodeidGet | sendReq | sendReqAgain | waitAckNb | waitAck | sendAck | slaveInfoGet |
      reservedA | reservedB | reservedC | reservedD | reservedE | reservedF =>
    exact .inr (.inr ⟨_, fun _ => rfl⟩)
  all_goals exact nomatch h

theorem exec_command_ne_fault {i : Instr} {op : BitVec 4} (h : i.row = .command op) (hr : s.run = none) :
    exec i s ≠ .fault r := by
  obtain rfl | rfl | ⟨k, hk⟩ := exec_command h
  · rw [exec, execHandler, issue_of_idle hr]
    split <;> nofun
  · rw [exec, execInit, issue_of_idle hr]
    split <;> nofun
  · rw [hk, issue_of_idle hr]
    nofun

/-- What a frame with `ack = 0` decodes to is a request row, of the slot that the frame names. -/
theorem requestMs_decodeRequest (v : IdFields) (dlc : BitVec 4) (data : Message) :
    requestMs (decodeRequest v dlc data) = some v.ms := by
  simp only [decodeRequest, decodeEtos, apply_ite requestMs]
  simp only [requestMs, etosOps, frameOps, ite_self]

theorem arbitrate_ne_fault (hr : s.run = some .drain) (ms : BitVec 3) (k : State → State) :
    s.arbitrate ms k ≠ .fault r := by
  rw [State.arbitrate, hr]
  dsimp only
  split <;> nofun

theorem takeAck_ne_fault (hr : (∃ slave, s.run = some (.waitAck slave)) ∨ ∃ c n, s.run = some (.probeWait c n))
    (f : Frame) : s.takeAck f ≠ .fault r := by
  obtain ⟨slave, hr⟩ | ⟨c, n, hr⟩ := hr <;> rw [State.takeAck, hr] <;> nofun

/-! ### The step -/

/-- What is fetched decodes, and its instruction is run where it may be: a command word with no command
running, a request at the drain, an acknowledge at a poll for one (00_scope.md R8; 30_encoding.md R78). -/
theorem QueueInv.fetched {w : Words} (hs : QueueInv s) (hf : s.fetch = some (w, u)) :
    ∃ i, decode w = .ok i ∧ ∀ r, exec i u ≠ .fault r := by
  obtain ⟨-, -, -, hrq, haq⟩ := hs
  rcases fetch_eq_some hf with ⟨cmd, data, more, hr, -, rfl, rfl⟩ | ⟨f, q, hr, hq, rfl, rfl⟩ |
    ⟨f, q, hr, hq, rfl, rfl⟩
  · exact ⟨_, rfl, fun r =>
      exec_command_ne_fault (s := { s with host := more }) (row_decodeCommand cmd data) hr⟩
  · obtain ⟨hide, hrtr, hack, -⟩ := hrq f (by simp [hq])
    obtain ⟨i, hi⟩ := exists_decode_frame hide hrtr
    obtain ⟨-, -, ⟨-, rfl⟩ | ⟨hone, -⟩⟩ := decode_frame_eq_ok hi
    · obtain ⟨k, hk⟩ := exec_request (requestMs_decodeRequest (unpack f.id) f.dlc f.data)
      exact ⟨_, hi, fun r => hk _ ▸ arbitrate_ne_fault (s := { s with rq := q }) hr _ k⟩
    · exact absurd (hack.symm.trans hone) (by decide)
  · obtain ⟨hide, hrtr, hack, -⟩ := haq f (by simp [hq])
    obtain ⟨i, hi⟩ := exists_decode_frame hide hrtr
    exact ⟨i, hi, fun r => exec_of_decode_ack hi hack _ ▸ takeAck_ne_fault (s := { s with aq := q }) hr f⟩

theorem bus_step_or_quiet (s : State) : (∃ t, step s = .next t) ∨ ∃ rest, Quiet s rest := by
  rcases turn_cases s with ⟨hb, -⟩ | ⟨rest, hb, -⟩ | ⟨f, rest, hb, -⟩ | ⟨k, rest, hb, -⟩
  · exact .inr ⟨_, .inl ⟨hb, rfl⟩⟩
  · exact .inr ⟨rest, .inr hb⟩
  · exact .inl ⟨_, step_of_deliver hb⟩
  · exact .inl ⟨_, step_of_sent hb⟩

end

/-- Settles O42: the BUS's steps and those that fetch nothing have a next state, and what is fetched from
queues of accepted frames is run where it may be. -/
theorem stepNeverFaults : Obligations.StepNeverFaults := by
  intro s r hs
  obtain ⟨t, ht⟩ | ⟨rest, hquiet⟩ := bus_step_or_quiet s
  · exact ht ▸ nofun
  · cases hf : { s with bus := rest }.fetch with
    | none => exact step_of_unfetched hquiet hf ▸ nofun
    | some wu =>
      obtain ⟨w, u⟩ := wu
      have hrest : QueueInv { s with bus := rest } := hs
      obtain ⟨i, hdecode, hexec⟩ := hrest.fetched hf
      exact step_of_fetched hquiet hf hdecode ▸ hexec r

end Sys2Proof.Machine

namespace Sys2Proof.Machine

/-! ## What a command that ends in an error leaves unchanged (60_exceptions.md R282) -/

section
variable {s t : State}

/-- A poll by itself answers no error (30_encoding.md R83; 42_master_request.md R152). -/
theorem Heard.code_lt_error {r : Result} (h : Heard s r t) : r.status.code.toNat < 3 := by
  cases h <;> exact of_decide_eq_true rfl

/-- A drain that HANDLER starts ends at once only in `Success` (44_dispatcher.md R221). -/
theorem startDrain_success (h : s.startDrain.run = none) : s.startDrain.res.status = .success := by
  by_cases hq : s.rq = []
  · rw [startDrain_of_empty hq]
    rfl
  · rw [startDrain_of_ne hq] at h
    exact nomatch h

/-- A move that starts with no command running and ends with none has an error for its result only where it
ends a command with no other effect, or where it is WAIT_ACK's. -/
theorem Move.error_of_idle {i : Instr} (h : Move s (some i) t) (hr : s.run = none) (ht : t.run = none)
    (herr : 3 ≤ t.res.status.code.toNat) : t = s.finish t.res ∨ ∃ slave, i = .waitAck slave := by
  have no_success (hst : t.res.status = .success) : False := by simp [hst, Status.code] at herr
  cases h
  case ends => exact .inl rfl
  case waits slave _ _ _ _ _ _ => exact .inr ⟨slave, rfl⟩
  case polls hheard => exact absurd herr (Nat.not_le.2 hheard.code_lt_error)
  case drains => exact (no_success (startDrain_success ht)).elim
  case resets | renames | requests | again | acks => exact (no_success rfl).elim
  case requestHolds | againHolds | ackHolds | scans | scanHolds => exact nomatch ht
  case replies hd | locks hd _ | unlocks hd _ | calls hd _ _ _ | hears hd _ | probes hd _ =>
    exact nomatch hd.symm.trans hr

end

/-- Settles O43: by the moves of an instruction that is not WAIT_ACK. -/
theorem errorHasNoSideEffect : Obligations.ErrorHasNoSideEffect := by
  intro i s t hi hr hexec ht herr
  obtain h | ⟨slave, rfl⟩ := (exec_moves hexec).error_of_idle hr ht herr
  · exact h
  · exact absurd rfl (hi slave)

end Sys2Proof.Machine

namespace Sys2Proof.Machine

/-! ## The reserved opcodes (60_exceptions.md R284) -/

/-- The rows of opcodes 0xA to 0xF. -/
def reservedCommands : List Instr :=
  [.reservedA, .reservedB, .reservedC, .reservedD, .reservedE, .reservedF]

theorem decodeCommand_mem_reservedCommands {cmd : BitVec 64} (h : 10 ≤ (cmdOp cmd).toNat)
    (data : BitVec 64) : decodeCommand cmd data ∈ reservedCommands := by
  obtain ⟨n, hn, hop⟩ := opcode_eq_ofNat (cmdOp cmd)
  have hle : 10 ≤ n := by simpa [hop, Nat.mod_eq_of_lt hn] using h
  interval_cases n <;> simp [decodeCommand, hop, reservedCommands]

theorem illegalCommand_of_idle {s : State} (hr : s.run = none) :
    s.illegalCommand = .next (s.returned (statusResult .illegalCommand)) :=
  issue_of_idle hr _

theorem exec_reservedCommands {s : State} {i : Instr} (hr : s.run = none) (hi : i ∈ reservedCommands) :
    exec i s = .next (s.returned (statusResult .illegalCommand)) := by
  simp only [reservedCommands, List.mem_cons, List.not_mem_nil, or_false] at hi
  obtain rfl | rfl | rfl | rfl | rfl | rfl := hi <;> exact illegalCommand_of_idle hr

/-- Settles O34: the six rows have one meaning, and the opcodes 0xA to 0xF are theirs. -/
theorem reservedCommandsIllegal : Obligations.ReservedCommandsIllegal := fun _ hr =>
  ⟨fun _ hi => exec_reservedCommands hr hi, fun _ data hop =>
    ⟨_, rfl, exec_reservedCommands hr (decodeCommand_mem_reservedCommands hop data)⟩⟩

end Sys2Proof.Machine
